-- ==== Sys2Proof/Word.lean ====
section
/-! DEFINITION. The word and bit types of the core (`00_scope.md` R8, `30_encoding.md` R91). -/

namespace Sys2Proof

/-- A host-bus word, a register, a generator: 32 bits, bit `i` of weight `2^i` (R8, R91). -/
abbrev Word := BitVec 32

/-- The document's Bit, "a 0/1 value": one element of IN_MEM or OUT_MEM (R13, R65). -/
abbrev Bit := BitVec 1

end Sys2Proof
end

