-- ==== Sys2Proof/Config.lean ====
section
/-! DEFINITION. What an implementation fixes (`00_scope.md` R6, `92_eei_decisions.md` D4) and the free values:
contents the spec leaves unspecified (`93_implementation_defined.md` U14, U15, U16). -/

namespace Sys2Proof

/-- The OPEN parameters of R6. They are data of a run, never changed by a step, so a statement over every state
holds for every choice of them (log entry 1). -/
structure Params where
  /-- `K_MAX`, the largest constraint length CONFIGURE accepts. -/
  kMax  : Nat
  /-- `G_MAX`, the number of generator registers. -/
  gMax  : Nat
  /-- `L_MAX`, the number of elements of each bit memory. -/
  lMax  : Nat
  /-- `N_MAX`, the largest number of trellis time steps per DECODE. -/
  nMax  : Nat
  /-- `COST_W`, the width in bits of one path-cost cell. -/
  costW : Nat
deriving DecidableEq, Repr

/-- The largest parameters R6 admits, with the smallest cost width that goes with them. DESIGN CHOICE, unsafe
(log entry 1): R6 leaves every value open. -/
def Params.widest : Params := { kMax := 32, gMax := 256, lMax := 2 ^ 28, nMax := 2 ^ 28, costW := 29 }

/-- FREE VALUE (log entry 6). What COST cell `i` holds after the `e`-th reset (R38, U14), before truncation to
COST_W bits. No body: nothing can be proved about it. -/
opaque Config.freeCost : (e i : Nat) → Nat

/-- FREE VALUE (log entry 6). VALID of BP entry `i` after the `e`-th reset (R39, U14). -/
opaque Config.freeBpValid : (e i : Nat) → Bool

/-- FREE VALUE (log entry 6). PRED of BP entry `i` after the `e`-th reset (R39, U14), before truncation. -/
opaque Config.freeBpPred : (e i : Nat) → Nat

/-- FREE VALUE (log entry 6). DEC of BP entry `i` after the `e`-th reset (R39, U14). -/
opaque Config.freeBpDec : (e i : Nat) → Bit

end Sys2Proof
end

