-- ==== Sys2Proof/Syntax.lean ====
section
/-! DEFINITION. The command set: one constructor per row of spec/opcode_table.json (`30_encoding.md` R93). -/

namespace Sys2Proof

/-- The three commands of R3 and R93. No command has operand fields: every operand comes from registers (R92, R99). -/
inductive Instr where
  /-- `new(constraintLength, generators)`, R110. -/
  | configure
  /-- `Codec.encode(input)`, R130. -/
  | encode
  /-- `Codec.decode(input)`, R150. -/
  | decode
deriving DecidableEq, Repr

end Sys2Proof
end

