-- ==== Sys2Proof/WellFormed.lean ====
section
/-! DEFINITION. Well-formedness: of commands (`30_encoding.md` R92) and of the parameters (`00_scope.md` R6). -/

namespace Sys2Proof

/-- A command has no operand field that could be out of range (R92, R103), so each constructor is well formed. -/
def Instr.wellFormed : Instr → Bool
  | .configure => true
  | .encode => true
  | .decode => true

/-- The constraints R6 sets on the parameters. -/
abbrev Params.legal (p : Params) : Prop :=
  (1 ≤ p.kMax ∧ p.kMax ≤ 32) ∧
  (1 ≤ p.gMax ∧ p.gMax ≤ 256) ∧
  (1 ≤ p.lMax ∧ p.lMax ≤ 2 ^ 28) ∧
  (1 ≤ p.nMax ∧ p.nMax ≤ p.lMax) ∧
  p.lMax < 2 ^ p.costW - 1

end Sys2Proof
end

