-- ==== Sys2Proof/Decode.lean ====
section
/-! DEFINITION. Decoding a command word, and its encoder (`30_encoding.md` R92, R93, R94). -/

namespace Sys2Proof

/-- Why a CMD word names no command (R94). Raised by `decodeWord`; the CHECK step turns either into the error code
ILLEGAL_COMMAND (R205), so neither stops the machine. -/
inductive IllegalWord where
  /-- RSVD is 0 and OP is one of the reserved codes 0x0, 0x4 to 0xF. -/
  | reservedOp (op : BitVec 4)
  /-- RSVD is not 0, whatever OP is. -/
  | reservedBits (rsvd : BitVec 28)
deriving DecidableEq, Repr

/-- Field OP, bits 3:0 of a command word (R92). -/
def opField (w : Word) : BitVec 4 := w.extractLsb' 0 4

/-- Field RSVD, bits 31:4 of a command word (R92). -/
def rsvdField (w : Word) : BitVec 28 := w.extractLsb' 4 28

/-- The operation code a value of OP selects (R93). -/
def decodeOp (op : BitVec 4) : Option Instr :=
  if op = 0x1#4 then some .configure
  else if op = 0x2#4 then some .encode
  else if op = 0x3#4 then some .decode
  else none

/-- The command a CMD word selects, or the reason it selects none (R93, R94): the whole word is matched. -/
def decodeWord (w : Word) : Except IllegalWord Instr :=
  if rsvdField w = 0 then
    match decodeOp (opField w) with
    | some i => .ok i
    | none => .error (.reservedOp (opField w))
  else .error (.reservedBits (rsvdField w))

/-- The OP code of a command (R93). -/
def opcode : Instr → BitVec 4
  | .configure => 0x1#4
  | .encode => 0x2#4
  | .decode => 0x3#4

/-- The command word of a command: RSVD = 0 above OP (R92, R93). -/
def encode (i : Instr) : Word := 0#28 ++ opcode i

/-- The opcode table's view of the decoder: an instruction of `nbits` bits `w`, bits above `nbits` being 0. A command
word is exactly 32 bits (R92), so a number that does not fit them is no command. -/
def decodeTableWord (nbits w : Nat) : Option Instr :=
  if w % 2 ^ nbits < 2 ^ 32 then (decodeWord (BitVec.ofNat 32 (w % 2 ^ nbits))).toOption else none

end Sys2Proof
end

