-- ==== Sys2Proof/Machine/State.lean ====
section
/-! DEFINITION. The state of the core, whole (`10_state.md`), of the HOST agent beside it (`00_scope.md` R14), the
reasons a step can stop (`60_exceptions.md` R220), and the state after reset (R48, R230). -/

namespace Sys2Proof.Machine

/-- Result codes of a command (R206). The reserved codes 6 to 15 have no constructor: "A reserved code appearing in a
model state is a model bug". -/
inductive ErrCode where
  | none
  | invalidConfiguration
  | invalidInputLength
  | notConfigured
  | capacity
  | illegalCommand
deriving DecidableEq, Repr

/-- The sequencer's phases (R43). -/
inductive Phase where
  | idle
  | check
  | cfgCommit
  | encStep
  | decInit
  | decAcs
  | decSel
  | decTb
deriving DecidableEq, Repr

/-- A memory: the elements that hold a value, each with its index, indices strictly rising (`Memory.wf` in Ops.lean).
What an unlisted element reads as belongs to each memory: no value in IN_MEM and OUT_MEM (R36), a free value in
COST and BP (U14). -/
abbrev Memory (α : Type) := List (Nat × α)

/-- One back-pointer entry (R39, R100). VALID = 0 is the document's "none". -/
structure BpEntry where
  valid : Bool
  pred  : Nat
  dec   : Bit
deriving DecidableEq, Repr

/-- What the HOST agent can do in one step (R14): a host-bus transaction of R90, or the reset action of R230. -/
inductive HostOp where
  | read  (a : Word)
  | write (a w : Word)
  | reset
deriving DecidableEq, Repr

/-- Whose step comes next, and for the HOST which one. The interleaving of the two agents is the model's only
non-determinism (R46); here it is data (log entry 2). -/
inductive Turn where
  | host (op : HostOp)
  | engine
deriving DecidableEq, Repr

/-- What a HOST address selects (R61, R62). -/
inductive Target where
  | cmd
  | status
  | kIn
  | gIn
  | ctrlIn
  | inLen
  | outLen
  | k
  | g
  | ctrl
  | genIn  (j : Nat)
  | gen    (j : Nat)
  | inMem  (i : Nat)
  | outMem (i : Nat)
deriving DecidableEq, Repr

/-- The whole state. Each field names the rule that gives it. -/
structure State where
  /-- The parameters of R6, fixed for a run (log entry 1). -/
  params     : Params
  /-- STATUS.CONFIGURED (R22, R23). -/
  configured : Bool
  /-- STATUS.BUSY (R22, R24). -/
  busy       : Bool
  /-- STATUS.ERR (R22, R25). -/
  err        : ErrCode
  /-- K_IN (R26). -/
  kIn        : Word
  /-- G_IN (R26). -/
  gIn        : Word
  /-- CTRL_IN (R26, R30). -/
  ctrlIn     : Word
  /-- GEN_IN[0..G_MAX-1] (R26, R33). -/
  genIn      : List Word
  /-- IN_LEN (R31). -/
  inLen      : Word
  /-- OUT_LEN (R32). -/
  outLen     : Word
  /-- K, the active constraint length (R27). -/
  k          : Word
  /-- G, the active generator count (R27). -/
  g          : Word
  /-- CTRL, the active termination mode (R27, R30). -/
  ctrl       : Word
  /-- GEN[0..G_MAX-1], the active generators (R27, R33). -/
  gen        : List Word
  /-- IN_MEM: the elements that hold a bit (R34, R36). -/
  inMem      : Memory Bit
  /-- OUT_MEM: the elements that hold a bit (R35, R36). -/
  outMem     : Memory Bit
  /-- ENC_STATE, the encoder's shift register (R37). -/
  encState   : Nat
  /-- COST, the path-cost memory, by flat index `t*S + s` (R38, R73, R101). -/
  cost       : Memory Nat
  /-- BP, the back-pointer memory, by flat index `t*S + s` (R39, R73, R100). -/
  bp         : Memory BpEntry
  /-- PHASE (R42, R43). -/
  phase      : Phase
  /-- OPC, the CMD word accepted at command start (R42). -/
  opc        : Word
  /-- I, ENCODE's index of the next input bit (R42). -/
  iIdx       : Word
  /-- NSTEPS, DECODE's number of trellis time steps (R42). -/
  nSteps     : Word
  /-- T, DECODE's time step or time index (R42). -/
  t          : Word
  /-- SI, the state being expanded (R42). -/
  si         : Nat
  /-- B, the candidate input bit (R42). -/
  b          : Bit
  /-- FST, the state traceback holds (R42). -/
  fst        : Nat
  /-- The model's own counter of reset events: which free values COST and BP hold (log entry 6). -/
  freeEpoch  : Nat
  /-- R234's window: a command was accepted and the host has not yet read STATUS with BUSY = 0 (log entry 4). -/
  pollDue    : Bool
  /-- R234's recorded fault: in that window, with BUSY = 0, the host has made an access other than a STATUS read. Never
  cleared, never final (R220, log entry 4). -/
  hazard     : Bool
  /-- The coming turns; when the list is empty every turn is the ENGINE's (R240, log entry 2). -/
  schedule   : List Turn
  /-- The words host reads have returned, newest first (R63, log entry 3). -/
  reads      : List Word
deriving DecidableEq, Repr

/-- Conditions the spec leaves unspecified "and a model must record each as a fault" (R220), and one of the model's
own. Each is safe: the model stops where the hardware goes on in a way the spec does not give. -/
inductive Fault where
  /-- R220 (a): `hostRead` of an IN_MEM or OUT_MEM element at address `a` that holds no value. While BUSY = 0 it is the
  fault named where the read breaks R234 too (DESIGN CHOICE, log entry 15). Safe. -/
  | hostReadNoValue (a : Word)
  /-- R220 (b): ENCODE or DECODE reads IN_MEM element `i`, which holds no value. Safe. -/
  | engineReadNoValue (i : Nat)
  /-- R220 (c): `hostRead` or `hostWrite` at the unmapped or out-of-range address `a` (R67). While BUSY = 0 it is the
  fault named where the access breaks R234 too (DESIGN CHOICE, log entry 15). Safe. -/
  | unmappedAccess (a : Word)
  /-- R220 (d): `hostRead` or `hostWrite`, other than a STATUS read, while BUSY = 1 (R234, R235, D15). It is the fault
  named where R220 (a) or (c) applies too (DESIGN CHOICE, log entry 15). Safe. -/
  | busyHazard
  /-- R220 (e): DEC_TB reads a back-pointer entry with VALID = 0, which no run reaches (R185). Safe. -/
  | invalidBackPointer
  /-- The model's own (log entry 8): the meaning of one command called in a phase of another. `step` never makes such
  a call, because it picks the command by PHASE (R46). Safe. -/
  | phaseMismatch
deriving DecidableEq, Repr

/-- Reasons an instruction has no meaning. No meaning of this model ends in one. -/
inductive Refusal where
  /-- An arm of `exec` not yet modelled, by mnemonic. Raised by no arm. Safe. -/
  | notModelled (mnemonic : String)
deriving DecidableEq, Repr

/-- R48, R230: every piece of state at its reset value, for parameters `p` and the `e`-th reset. The registers R48
leaves unspecified are 0 (DESIGN CHOICE, unsafe, log entry 5); COST and BP list nothing, so that every cell reads as a
free value (log entry 6). -/
def State.resetWith (p : Params) (e : Nat) : State where
  params := p
  configured := false
  busy := false
  err := .none
  kIn := 0
  gIn := 0
  ctrlIn := 0
  genIn := List.replicate p.gMax 0
  inLen := 0
  outLen := 0
  k := 0
  g := 0
  ctrl := 0
  gen := List.replicate p.gMax 0
  inMem := []
  outMem := []
  encState := 0
  cost := []
  bp := []
  phase := .idle
  opc := 0
  iIdx := 0
  nSteps := 0
  t := 0
  si := 0
  b := 0
  fst := 0
  freeEpoch := e
  pollDue := false
  hazard := false
  schedule := []
  reads := []

/-- The machine right after reset (R48, R230), with the widest parameters of R6 (log entry 1) and nothing scheduled. -/
def State.reset : State := State.resetWith Params.widest 0

end Sys2Proof.Machine
end

