-- ==== Sys2Proof/Machine/Ops.lean ====
section
/-! DEFINITION. The named operations over memories and registers, the acceptance of a command (`10_state.md` R21), its
end (`60_exceptions.md` R207, R210), and the reset event (`70_reset_and_hazards.md` R230). -/

namespace Sys2Proof.Machine

/-- The canonical form of a memory: indices strictly rising, so that equal contents are equal lists. -/
abbrev Memory.wf {α : Type} (m : Memory α) : Prop := m.Pairwise (fun x y => x.1 < y.1)

/-- The value element `i` holds, or none. -/
def Memory.read {α : Type} (m : Memory α) (i : Nat) : Option α :=
  match m with
  | [] => none
  | (j, v) :: m => if i = j then some v else Memory.read m i

/-- Element `i` takes `v`; every other element keeps what it holds. -/
def Memory.write {α : Type} (m : Memory α) (i : Nat) (v : α) : Memory α :=
  match m with
  | [] => [(i, v)]
  | (j, x) :: m =>
    if i < j then (i, v) :: (j, x) :: m
    else if i = j then (i, v) :: m
    else (j, x) :: Memory.write m i v

/-- Elements `0..n-1` take the values of `f`; every element at and above `n` keeps what it holds. -/
def Memory.fillBelow {α : Type} (m : Memory α) (n : Nat) (f : Nat → α) : Memory α :=
  (List.range n).map (fun i => (i, f i)) ++ m.filter (fun x => n ≤ x.1)

/-- The end of a command, successful or not (R207, R210): ERR takes the code, BUSY and PHASE go idle, nothing else
changes. It is the core's counterpart of taking an exception and of returning from one. -/
def State.endCommand (c : ErrCode) (s : State) : State :=
  { s with err := c, busy := false, phase := .idle }

/-- `raise Error(code)` (R207). -/
def raiseError (c : ErrCode) (s : State) : Host.Outcome State Fault Refusal :=
  .next (s.endCommand c)

/-- Acceptance of a command word (R21, R24, D32): OPC latches it, BUSY is set, PHASE enters CHECK, and R234's window
opens. -/
def State.acceptCommand (w : Word) (s : State) : State :=
  { s with opc := w, busy := true, phase := .check, pollDue := true }

/-- The reset event (R230, R232): every piece of the core's state takes its reset value; the parameters and the HOST
agent's own schedule and reads stay, and so does a recorded hazard, which is never cleared (R220, log entry 4). -/
def State.resetEvent (s : State) : State :=
  { State.resetWith s.params (s.freeEpoch + 1) with
    hazard := s.hazard
    schedule := s.schedule
    reads := s.reads }

end Sys2Proof.Machine
end

