-- ==== Sys2Proof/Machine/Operands.lean ====
section
/-! DEFINITION. Operand assembly (`30_encoding.md` R99), the derived quantities (`00_scope.md` R7), the trellis cells
(`10_state.md` R38, R39) and the datapath that ENCODE and DECODE share (`41_encode.md` R133, R134). -/

namespace Sys2Proof.Machine

/-! ### Operands and derived quantities -/

/-- `kin = signed32(K_IN)` (R97, R99). -/
def State.kinSigned (s : State) : Int := s.kIn.toInt

/-- `K` as a number (R7). -/
def State.kNum (s : State) : Nat := s.k.toNat

/-- `G = len(generators)` (R7). -/
def State.gNum (s : State) : Nat := s.g.toNat

/-- `S = 2^(K-1)`, the state count (R7, R152). -/
def State.stateCount (s : State) : Nat := 2 ^ (s.kNum - 1)

/-- `KMASK = 2^K - 1` (R7). -/
def State.kMask (s : State) : Nat := 2 ^ s.kNum - 1

/-- `SMASK = S - 1`, the low K-1 bits (R7). -/
def State.sMask (s : State) : Nat := s.stateCount - 1

/-- `INF = 2^COST_W - 1`, "unreachable" (R7, R40, R101). -/
def State.inf (s : State) : Nat := 2 ^ s.params.costW - 1

/-- `GEN[j]` as a number (R98). -/
def State.genNum (s : State) (j : Nat) : Nat := (s.gen.getD j 0).toNat

/-- `CTRL.TERM`, bit 0 of CTRL: set for ZERO_STATE, clear for MIN_COST (R30, R96). -/
def State.zeroTerm (s : State) : Bool := s.ctrl.getLsbD 0

/-- Bit 0 of a written word, zero-extended: what CTRL_IN and CTRL store (R30, R64, R113). -/
def bit0Word (w : Word) : Word := (w.extractLsb' 0 1).setWidth 32

/-! ### Trellis cells -/

/-- The flat index of cell `(t, st)`: `time * S + state` (R73). -/
def State.cellIndex (s : State) (t st : Nat) : Nat := t * s.stateCount + st

/-- COST cell by flat index: what was last written, or the free value of the last reset, COST_W bits wide (U14). -/
def State.costCell (s : State) (i : Nat) : Nat :=
  (Memory.read s.cost i).getD (Config.freeCost s.freeEpoch i % 2 ^ s.params.costW)

/-- BP entry by flat index: what was last written, or the free value of the last reset, PRED of K_MAX-1 bits (U14). -/
def State.bpCell (s : State) (i : Nat) : BpEntry :=
  (Memory.read s.bp i).getD
    { valid := Config.freeBpValid s.freeEpoch i
      pred := Config.freeBpPred s.freeEpoch i % 2 ^ (s.params.kMax - 1)
      dec := Config.freeBpDec s.freeEpoch i }

/-- `COST[t][st]` (R38). -/
def State.costAt (s : State) (t st : Nat) : Nat := s.costCell (s.cellIndex t st)

/-- `BP[t][st]` (R39). -/
def State.bpAt (s : State) (t st : Nat) : BpEntry := s.bpCell (s.cellIndex t st)

/-- `satadd(a, b) = min(a + b, INF)` (R10, R40). -/
def satadd (inf a b : Nat) : Nat := min (a + b) inf

/-! ### The shift register and the generators -/

/-- `popcount(v)` over the low `n` bits of `v` (R10). -/
def popcount (n v : Nat) : Nat :=
  match n with
  | 0 => 0
  | n + 1 => v % 2 + popcount n (v / 2)

/-- `parity(v) = popcount(v) mod 2`, for a value of at most 32 bits (R10). -/
def parity (v : Nat) : Bit := BitVec.ofNat 1 (popcount 32 v)

/-- `combined = (state << 1) | bit` (R8, R133, R155). -/
def shiftIn (state : Nat) (x : Bit) : Nat := state <<< 1 ||| x.toNat

/-- `parity(combined & GEN[j] & KMASK)`, the expected output bit of generator `j` (R134, R155). -/
def State.outBit (s : State) (combined j : Nat) : Bit :=
  parity (combined &&& s.genNum j &&& s.kMask)

/-- `combined & SMASK`, the next shift-register state (R133, R155). -/
def State.nextState (s : State) (combined : Nat) : Nat := combined &&& s.sMask

end Sys2Proof.Machine
end

