-- ==== Sys2Proof/Machine/Flags.lean ====
section
/-! DEFINITION. The STATUS word (`30_encoding.md` R91, R95) and the error codes (`60_exceptions.md` R206): the core has
no other flags (`10_state.md` R47). -/

namespace Sys2Proof.Machine

/-- The number of a result code (R206). -/
def ErrCode.number : ErrCode → BitVec 4
  | .none => 0#4
  | .invalidConfiguration => 1#4
  | .invalidInputLength => 2#4
  | .notConfigured => 3#4
  | .capacity => 4#4
  | .illegalCommand => 5#4

/-- `STATUS = {24'b0, ERR[3:0], 2'b00, BUSY, CONFIGURED}` (R95). -/
def State.statusWord (s : State) : Word :=
  0#24 ++ s.err.number ++ 0#2 ++ BitVec.ofBool s.busy ++ BitVec.ofBool s.configured

/-- A CTRL_IN or CTRL word as read: TERM at bit 0, every reserved bit 0 (R30, R91, R96). -/
def ctrlWord (w : Word) : Word := w &&& 1#32

end Sys2Proof.Machine
end

