-- ==== Sys2Proof/Machine/Configure.lean ====
section
/-! DEFINITION. CONFIGURE (`40_configure.md` R110 to R119). -/

namespace Sys2Proof.Machine

/-- R111: the staged configuration is invalid: `signed32(K_IN) <= 0` or `G_IN = 0`. -/
def State.stagedInvalid (s : State) : Bool := decide (s.kinSigned ≤ 0 ∨ s.gIn = 0)

/-- R112: the staged configuration exceeds the core: `signed32(K_IN) > K_MAX` or `G_IN > G_MAX`. -/
def State.stagedTooLarge (s : State) : Bool :=
  decide ((s.params.kMax : Int) < s.kinSigned ∨ s.params.gMax < s.gIn.toNat)

/-- CHECK of CONFIGURE (R110, R208): INVALID_CONFIGURATION, then CAPACITY, then on to CFG_COMMIT. -/
def configureCheck (s : State) : Host.Outcome State Fault Refusal :=
  if s.stagedInvalid then raiseError .invalidConfiguration s
  else if s.stagedTooLarge then raiseError .capacity s
  else .next { s with phase := .cfgCommit }

/-- The copy CFG_COMMIT makes (R113, R114): K, G, CTRL and every generator register, verbatim. -/
def State.commitConfig (s : State) : State :=
  { s with
    k := BitVec.ofInt 32 s.kinSigned
    g := s.gIn
    ctrl := bit0Word s.ctrlIn
    gen := s.genIn
    configured := true }

/-- The meaning of CONFIGURE: the next micro-operation of the command (R110). In IDLE that is its acceptance (R21). -/
def execConfigure (s : State) : Host.Outcome State Fault Refusal :=
  match s.phase with
  | .idle => .next (s.acceptCommand (encode .configure))
  | .check => configureCheck s
  | .cfgCommit => .next (s.commitConfig.endCommand .none)
  | .encStep => .fault .phaseMismatch
  | .decInit => .fault .phaseMismatch
  | .decAcs => .fault .phaseMismatch
  | .decSel => .fault .phaseMismatch
  | .decTb => .fault .phaseMismatch

end Sys2Proof.Machine
end

