-- ==== Sys2Proof/Machine/Encode.lean ====
section
/-! DEFINITION. ENCODE (`41_encode.md` R130 to R142). -/

namespace Sys2Proof.Machine

/-- R131: the encoded sequence does not fit: `IN_LEN * G > L_MAX`, the product exact. -/
def State.encodeTooLarge (s : State) : Bool := decide (s.params.lMax < s.inLen.toNat * s.gNum)

/-- ENC_STATE and I at the start of an ENCODE (R132). -/
def State.startEncode (s : State) : State :=
  { s with encState := 0, iIdx := 0, phase := .encStep }

/-- CHECK of ENCODE (R131, R208): NOT_CONFIGURED, then CAPACITY, then on to ENC_STEP. -/
def encodeCheck (s : State) : Host.Outcome State Fault Refusal :=
  if !s.configured then raiseError .notConfigured s
  else if s.encodeTooLarge then raiseError .capacity s
  else .next s.startEncode

/-- The output bits of one input bit, generators `0..n-1` in order, at `OUT_MEM[base + j]` (R134, R135). -/
def State.writeGroup (s : State) (combined base n : Nat) (m : Memory Bit) : Memory Bit :=
  match n with
  | 0 => m
  | n + 1 => Memory.write (s.writeGroup combined base n m) (base + n) (s.outBit combined n)

/-- One ENC_STEP for input bit `x` (R133): emit the group, shift, advance I. -/
def State.encodeBit (x : Bit) (s : State) : State :=
  { s with
    outMem := s.writeGroup (shiftIn s.encState x) (s.iIdx.toNat * s.gNum) s.gNum s.outMem
    encState := s.nextState (shiftIn s.encState x)
    iIdx := s.iIdx + 1 }

/-- Completion of ENCODE (R136): OUT_LEN takes `IN_LEN * G`. -/
def State.finishEncode (s : State) : State :=
  { s with outLen := BitVec.ofNat 32 (s.inLen.toNat * s.gNum) }.endCommand .none

/-- ENC_STEP (R133, R136): completion at `I = IN_LEN`, otherwise one input bit, which must hold a value (R66). -/
def encodeStep (s : State) : Host.Outcome State Fault Refusal :=
  if s.iIdx = s.inLen then .next s.finishEncode
  else
    match Memory.read s.inMem s.iIdx.toNat with
    | none => .fault (.engineReadNoValue s.iIdx.toNat)
    | some x => .next (s.encodeBit x)

/-- The meaning of ENCODE: the next micro-operation of the command (R130). In IDLE that is its acceptance (R21). -/
def execEncode (s : State) : Host.Outcome State Fault Refusal :=
  match s.phase with
  | .idle => .next (s.acceptCommand (encode .encode))
  | .check => encodeCheck s
  | .encStep => encodeStep s
  | .cfgCommit => .fault .phaseMismatch
  | .decInit => .fault .phaseMismatch
  | .decAcs => .fault .phaseMismatch
  | .decSel => .fault .phaseMismatch
  | .decTb => .fault .phaseMismatch

end Sys2Proof.Machine
end

