-- ==== Sys2Proof/Machine/Trellis.lean ====
section
/-! DEFINITION. The Viterbi trellis engine: the checks, initialisation and forward pass of DECODE
(`42_decode_trellis.md` R150 to R167). -/

namespace Sys2Proof.Machine

/-- R151, check 2: `IN_LEN mod G != 0`. -/
def State.lengthInvalid (s : State) : Bool := decide (s.inLen.toNat % s.gNum ≠ 0)

/-- R151, check 3: `IN_LEN > L_MAX` or `IN_LEN div G > N_MAX`. -/
def State.decodeTooLarge (s : State) : Bool :=
  decide (s.params.lMax < s.inLen.toNat ∨ s.params.nMax < s.inLen.toNat / s.gNum)

/-- NSTEPS at the start of a DECODE (R152). -/
def State.startDecode (s : State) : State :=
  { s with nSteps := BitVec.ofNat 32 (s.inLen.toNat / s.gNum), phase := .decInit }

/-- CHECK of DECODE (R151, R208): NOT_CONFIGURED, INVALID_INPUT_LENGTH, CAPACITY, then on to DEC_INIT. -/
def decodeCheck (s : State) : Host.Outcome State Fault Refusal :=
  if !s.configured then raiseError .notConfigured s
  else if s.lengthInvalid then raiseError .invalidInputLength s
  else if s.decodeTooLarge then raiseError .capacity s
  else .next s.startDecode

/-- The number of cells of the running trellis, `t` in 0..N and `s` in 0..S-1 (R73, R152). -/
def State.trellisSize (s : State) : Nat := (s.nSteps.toNat + 1) * s.stateCount

/-- The initialised trellis (R153): every cell INF, every entry VALID = 0 with PRED and DEC as they were, then
`COST[0][0] = 0`. Nothing outside `[0..N] × [0..S-1]` is written. -/
def State.initTrellis (s : State) : State :=
  { s with
    cost := Memory.write (Memory.fillBelow s.cost s.trellisSize (fun _ => s.inf)) (s.cellIndex 0 0) 0
    bp := Memory.fillBelow s.bp s.trellisSize (fun i => { s.bpCell i with valid := false }) }

/-- The counters at the start of the forward pass (R150). -/
def State.startForward (s : State) : State :=
  { s with t := 0, si := 0, b := 0, phase := .decAcs }

/-- DEC_INIT (R153), which ends the command at once if there is no time step (R164). -/
def decodeInit (s : State) : Host.Outcome State Fault Refusal :=
  if s.nSteps = 0 then .next ({ s.initTrellis with outLen := 0 }.endCommand .none)
  else .next s.initTrellis.startForward

/-- `segmentCost` over generators `0..n-1` (R156): how many expected bits differ from `IN_MEM[base + j]`. An element
that holds no value is a fault (R66). -/
def State.segmentCost (s : State) (combined base n : Nat) : Except Fault Nat :=
  match n with
  | 0 => .ok 0
  | n + 1 =>
    match s.segmentCost combined base n with
    | .error f => .error f
    | .ok c =>
      match Memory.read s.inMem (base + n) with
      | none => .error (.engineReadNoValue (base + n))
      | some x => .ok (c + (s.outBit combined n ^^^ x).toNat)

/-- Compare and select (R156): candidate cost `c` into `(T+1, ns)` from state SI by bit B wins only if strictly less
than what the cell holds. -/
def State.select (ns c : Nat) (s : State) : State :=
  if c < s.costAt (s.t.toNat + 1) ns then
    { s with
      cost := Memory.write s.cost (s.cellIndex (s.t.toNat + 1) ns) c
      bp := Memory.write s.bp (s.cellIndex (s.t.toNat + 1) ns) { valid := true, pred := s.si, dec := s.b } }
  else s

/-- `next(T, SI, B)` in lexicographic order, and the hand-over to DEC_SEL at `T = NSTEPS` (R157, R165). -/
def State.advance (s : State) : State :=
  let wrapB := s.b = 1
  let si := if wrapB then s.si + 1 else s.si
  let wrapSi := si = s.stateCount
  let t := if wrapSi then s.t + 1 else s.t
  { s with
    b := if wrapB then 0 else 1
    si := if wrapSi then 0 else si
    t := t
    phase := if t = s.nSteps then .decSel else .decAcs }

/-- DEC_ACS, one candidate (R154 to R157): only a reachable state is evaluated; the counters always advance. -/
def decodeAcs (s : State) : Host.Outcome State Fault Refusal :=
  if s.costAt s.t.toNat s.si = s.inf then .next s.advance
  else
    let combined := shiftIn s.si s.b
    match s.segmentCost combined (s.t.toNat * s.gNum) s.gNum with
    | .error f => .fault f
    | .ok seg =>
      .next (s.select (s.nextState combined) (satadd s.inf (s.costAt s.t.toNat s.si) seg)).advance

end Sys2Proof.Machine
end

