-- ==== Sys2Proof/Machine/Traceback.lean ====
section
/-! DEFINITION. Terminal-state selection and traceback (`43_traceback.md` R180 to R190), and the meaning of DECODE
over all its phases (`42_decode_trellis.md` R150). -/

namespace Sys2Proof.Machine

/-- The better of the state found so far and a later one: the later one only if strictly cheaper (R181). -/
def cheaper (f : Nat → Nat) (later found : Nat) : Nat := if f later < f found then later else found

/-- The least index in `0..n` at which `f` takes its minimum over `0..n`, scanning upwards (R181). -/
def argMin (f : Nat → Nat) (n : Nat) : Nat :=
  match n with
  | 0 => 0
  | n + 1 => cheaper f (n + 1) (argMin f n)

/-- The terminal state: the least minimum-cost state at time N, or state 0 (R181, R182). -/
def State.terminalState (s : State) : Nat :=
  if s.zeroTerm then 0 else argMin (s.costAt s.nSteps.toNat) (s.stateCount - 1)

/-- DEC_SEL (R180). -/
def decodeSelect (s : State) : Host.Outcome State Fault Refusal :=
  .next { s with fst := s.terminalState, t := s.nSteps, phase := .decTb }

/-- One traceback step with entry `e` (R183, R184): the decision bit goes to `OUT_MEM[T-1]`, FST to the predecessor. -/
def State.traceBit (e : BpEntry) (s : State) : State :=
  { s with
    outMem := Memory.write s.outMem (s.t.toNat - 1) e.dec
    fst := e.pred
    t := s.t - 1 }

/-- Completion of DECODE (R186): OUT_LEN takes N. -/
def State.finishDecode (s : State) : State :=
  { s with outLen := s.nSteps }.endCommand .none

/-- DEC_TB (R183 to R186): completion at `T = 0`, otherwise one decoded bit. VALID = 0 is the fault of R185. -/
def decodeTraceback (s : State) : Host.Outcome State Fault Refusal :=
  if s.t = 0 then .next s.finishDecode
  else
    let e := s.bpAt s.t.toNat s.fst
    if e.valid then .next (s.traceBit e) else .fault .invalidBackPointer

/-- The meaning of DECODE: the next micro-operation of the command (R150, R180). In IDLE that is its acceptance
(R21). -/
def execDecode (s : State) : Host.Outcome State Fault Refusal :=
  match s.phase with
  | .idle => .next (s.acceptCommand (encode .decode))
  | .check => decodeCheck s
  | .decInit => decodeInit s
  | .decAcs => decodeAcs s
  | .decSel => decodeSelect s
  | .decTb => decodeTraceback s
  | .cfgCommit => .fault .phaseMismatch
  | .encStep => .fault .phaseMismatch

end Sys2Proof.Machine
end

