-- ==== Sys2Proof/Machine/Engine.lean ====
section
/-! DEFINITION. The ENGINE agent's step relation (`10_state.md` R46, `60_exceptions.md` R205, R208). -/

namespace Sys2Proof.Machine

/-- CHECK (R208): the accepted word is decoded and its command checked; an illegal word always raises
ILLEGAL_COMMAND (R94, R205). -/
def engineCheck (s : State) : Host.Outcome State Fault Refusal :=
  match decodeWord s.opc with
  | .ok i => exec i s
  | .error _ => raiseError .illegalCommand s

/-- The ENGINE's step: the micro-operation of the current PHASE (R46). In IDLE it has none and the core holds all its
state (R219). -/
def engineStep (s : State) : Host.Outcome State Fault Refusal :=
  match s.phase with
  | .idle => .next s
  | .check => engineCheck s
  | .cfgCommit => exec .configure s
  | .encStep => exec .encode s
  | .decInit => exec .decode s
  | .decAcs => exec .decode s
  | .decSel => exec .decode s
  | .decTb => exec .decode s

/-- `n` engine steps, stopping at the first fault: a command with no host turn between its micro-steps (R75). -/
def engineRun (n : Nat) (s : State) : Host.Outcome State Fault Refusal :=
  match n with
  | 0 => .next s
  | n + 1 =>
    match engineStep s with
    | .next t => engineRun n t
    | .fault f => .fault f
    | .refused r => .refused r

end Sys2Proof.Machine
end

