-- ==== Sys2Proof/Machine/HostBus.lean ====
section
/-! DEFINITION. The HOST agent's steps: the address map (`20_memory.md` R61, R62), reads and writes (R63 to R68), the
busy hazard (`70_reset_and_hazards.md` R234, R235), and the end of a run with its end state (R243). -/

namespace Sys2Proof.Machine

/-- The single registers of the REG region, by offset (R62). -/
def fixedTarget (off : Nat) : Option Target :=
  match off with
  | 0x000 => some .cmd
  | 0x001 => some .status
  | 0x002 => some .kIn
  | 0x003 => some .gIn
  | 0x004 => some .ctrlIn
  | 0x005 => some .inLen
  | 0x006 => some .outLen
  | 0x008 => some .k
  | 0x009 => some .g
  | 0x00A => some .ctrl
  | _ => none

/-- The generator registers of the REG region, by offset (R62). -/
def genTarget (p : Params) (off : Nat) : Option Target :=
  if 0x100 ≤ off ∧ off < 0x100 + p.gMax then some (.genIn (off - 0x100))
  else if 0x200 ≤ off ∧ off < 0x200 + p.gMax then some (.gen (off - 0x200))
  else none

/-- The register at an offset of the REG region (R62), or none where the offset is unmapped. -/
def regTarget (p : Params) (off : Nat) : Option Target := (fixedTarget off).or (genTarget p off)

/-- The region of a HOST address, `a[31:28]` (R61). -/
def addrRegion (a : Word) : Nat := (a.extractLsb' 28 4).toNat

/-- The offset of a HOST address in its region, `a[27:0]` (R61). -/
def addrOffset (a : Word) : Nat := (a.extractLsb' 0 28).toNat

/-- What a HOST address selects, by region `a[31:28]` and offset `a[27:0]` (R61); none where nothing is mapped. -/
def decodeAddr (p : Params) (a : Word) : Option Target :=
  if addrRegion a = 0x0 then regTarget p (addrOffset a)
  else if addrRegion a = 0x1 then (if addrOffset a < p.lMax then some (.inMem (addrOffset a)) else none)
  else if addrRegion a = 0x2 then (if addrOffset a < p.lMax then some (.outMem (addrOffset a)) else none)
  else none

/-- The address of a target, from the tables of R61 and R62. -/
def Target.addr : Target → Word
  | .cmd => 0x00000000#32
  | .status => 0x00000001#32
  | .kIn => 0x00000002#32
  | .gIn => 0x00000003#32
  | .ctrlIn => 0x00000004#32
  | .inLen => 0x00000005#32
  | .outLen => 0x00000006#32
  | .k => 0x00000008#32
  | .g => 0x00000009#32
  | .ctrl => 0x0000000A#32
  | .genIn j => 0x00000100#32 + BitVec.ofNat 32 j
  | .gen j => 0x00000200#32 + BitVec.ofNat 32 j
  | .inMem i => 0x10000000#32 + BitVec.ofNat 32 i
  | .outMem i => 0x20000000#32 + BitVec.ofNat 32 i

/-- The word a bit memory element reads as (R63, R102): `{31'b0, bit}`, or a fault where it holds no value. -/
def elementWord (a : Word) (x : Option Bit) : Except Fault Word :=
  match x with
  | some x => .ok (x.setWidth 32)
  | none => .error (.hostReadNoValue a)

/-- The 32-bit value a read of address `a` returns (R63, R68, R91). -/
def readWord (a : Word) (s : State) : Except Fault Word :=
  match decodeAddr s.params a with
  | none => .error (.unmappedAccess a)
  | some .cmd => .ok 0
  | some .status => .ok s.statusWord
  | some .kIn => .ok s.kIn
  | some .gIn => .ok s.gIn
  | some .ctrlIn => .ok (ctrlWord s.ctrlIn)
  | some .inLen => .ok s.inLen
  | some .outLen => .ok s.outLen
  | some .k => .ok s.k
  | some .g => .ok s.g
  | some .ctrl => .ok (ctrlWord s.ctrl)
  | some (.genIn j) => .ok (s.genIn.getD j 0)
  | some (.gen j) => .ok (s.gen.getD j 0)
  | some (.inMem i) => elementWord a (Memory.read s.inMem i)
  | some (.outMem i) => elementWord a (Memory.read s.outMem i)

/-- Whether a read of address `a` is a STATUS read, the one access R234 allows in the busy window. -/
def State.isStatusRead (s : State) (a : Word) : Bool := decide (decodeAddr s.params a = some .status)

/-- The busy window (R234): from an accepted CMD write until the host has read STATUS with BUSY = 0. BUSY = 1 always
lies in it (R220 (d), R235). -/
def State.pollWindow (s : State) : Bool := s.busy || s.pollDue

/-- R234's record of a host access other than a STATUS read: in the busy window it is a fault, which is recorded and
never cleared (R220); outside the window nothing changes (log entry 4). -/
def State.noteAccess (s : State) : State := { s with hazard := s.hazard || s.pollWindow }

/-- The word a read returned reaches the host (R63); a STATUS read that returns BUSY = 0 closes the busy window, and any
other read in it is recorded (R234, log entry 4). No register, memory element or sequencer field changes. -/
def State.observe (a v : Word) (s : State) : State :=
  { s with
    reads := v :: s.reads
    pollDue := s.pollDue && !(s.isStatusRead a && !s.busy)
    hazard := s.hazard || (s.pollWindow && !s.isStatusRead a) }

/-- Host read `RD a` (R63). While BUSY = 1 only STATUS may be read (R220 (d), D15); while BUSY = 0 the read returns its
value, recorded where it breaks R234 (log entry 4). DESIGN CHOICE (log entry 15): where the address is unmapped too, or
the element holds no value, the fault named is the busy hazard's while BUSY = 1, and unmappedAccess or hostReadNoValue
in the rest of R234's window. -/
def hostRead (a : Word) (s : State) : Host.Outcome State Fault Refusal :=
  if s.busy && !s.isStatusRead a then .fault .busyHazard
  else
    match readWord a s with
    | .error f => .fault f
    | .ok v => .next (s.observe a v)

/-- The effect of a host write of `w` on a mapped target (R64, R65, R68). -/
def State.writeTarget (tgt : Target) (w : Word) (s : State) : State :=
  match tgt with
  | .cmd => s.acceptCommand w
  | .kIn => { s with kIn := w }
  | .gIn => { s with gIn := w }
  | .ctrlIn => { s with ctrlIn := bit0Word w }
  | .inLen => { s with inLen := w }
  | .genIn j => { s with genIn := s.genIn.set j w }
  | .inMem i => { s with inMem := Memory.write s.inMem i (w.extractLsb' 0 1) }
  | .status => s
  | .outLen => s
  | .k => s
  | .g => s
  | .ctrl => s
  | .gen _ => s
  | .outMem _ => s

/-- Host write `WR a, w` (R64). While BUSY = 1 no write is allowed (R220 (d), R235, D15); while BUSY = 0 the write has
its effect, recorded where it breaks R234 (log entry 4); an unmapped address faults (R67). DESIGN CHOICE (log entry 15):
where the address is unmapped too, the fault named is the busy hazard's while BUSY = 1, and unmappedAccess in the rest
of R234's window. -/
def hostWrite (a w : Word) (s : State) : Host.Outcome State Fault Refusal :=
  if s.busy then .fault .busyHazard
  else
    match decodeAddr s.params a with
    | none => .fault (.unmappedAccess a)
    | some tgt => .next (s.noteAccess.writeTarget tgt w)

/-- The HOST's step (R14): a transaction, or the reset action, which may occur at any time (R230). -/
def hostStep (op : HostOp) (s : State) : Host.Outcome State Fault Refusal :=
  match op with
  | .read a => hostRead a s
  | .write a w => hostWrite a w s
  | .reset => .next s.resetEvent

/-! ### The end of a run (R243) -/

/-- A turn of the HOST: a transaction or the reset action (R14). -/
def Turn.isHost : Turn → Bool
  | .host _ => true
  | .engine => false

/-- The end of a run (R243): the host program has issued its last transaction, and PHASE = IDLE. -/
def State.runOver (s : State) : Bool := !s.schedule.any Turn.isHost && decide (s.phase = .idle)

/-- The end state of a run (R243), what the host can read: STATUS, the registers of R62 (CMD reads 0 always), and the
elements of IN_MEM and OUT_MEM that hold values. -/
structure EndState where
  status : Word
  kIn    : Word
  gIn    : Word
  ctrlIn : Word
  inLen  : Word
  outLen : Word
  k      : Word
  g      : Word
  ctrl   : Word
  genIn  : List Word
  gen    : List Word
  inMem  : Memory Bit
  outMem : Memory Bit
deriving DecidableEq, Repr

/-- What the host can read of `s` (R243). The trellis memories, ENC_STATE and the sequencer are no part of it (R49). -/
def State.endState (s : State) : EndState where
  status := s.statusWord
  kIn := s.kIn
  gIn := s.gIn
  ctrlIn := ctrlWord s.ctrlIn
  inLen := s.inLen
  outLen := s.outLen
  k := s.k
  g := s.g
  ctrl := ctrlWord s.ctrl
  genIn := s.genIn
  gen := s.gen
  inMem := s.inMem
  outMem := s.outMem

end Sys2Proof.Machine
end

