-- ==== Sys2Proof/Machine/Step.lean ====
section
/-! DEFINITION. One step of the model: one step of one of the two agents (`00_scope.md` R14, `10_state.md` R46). -/

namespace Sys2Proof.Machine

/-- The agent whose turn it is steps (R14). With no turn left in the schedule the ENGINE steps, which is the weak
fairness R240 assumes (log entry 2). -/
def step (s : State) : Host.Outcome State Fault Refusal :=
  match s.schedule with
  | [] => engineStep s
  | .engine :: rest => engineStep { s with schedule := rest }
  | .host op :: rest => hostStep op { s with schedule := rest }

/-- `s` with the command of `nbits` bits `w` accepted (R21) and the next turn the ENGINE's, so that `step` runs its
CHECK (log entry 9). -/
def State.withFetchWord (s : State) (nbits w : Nat) : State :=
  { s.acceptCommand (BitVec.ofNat 32 (w % 2 ^ nbits)) with schedule := .engine :: s.schedule }

end Sys2Proof.Machine
end

