-- ==== Sys2Proof/Safety.lean ====
section
/-! DEFINITION. What claims are stated in: reference functions of the encoder (`41_encode.md` R134, R140), the ENGINE's
turn, a host that keeps the busy rule (`70_reset_and_hazards.md` R234), and the invariants of the machine. -/

namespace Sys2Proof.Safety

open Sys2Proof.Machine

/-! ### Reference functions -/

/-- The XOR of the bits of `c` at the positions `0..n-1` that `g` selects (R134). -/
def tapParity (g c n : Nat) : Bit :=
  match n with
  | 0 => 0
  | p + 1 => tapParity g c p ^^^ (if g.testBit p && c.testBit p then 1 else 0)

/-- The closed form of R140: the XOR over `p` in `0..n-1` of `g[p] AND x_(i-p)`, with `x_m = 0` for `m < 0`. -/
def convBit (g : Nat) (x : Nat → Bit) (i n : Nat) : Bit :=
  match n with
  | 0 => 0
  | p + 1 => convBit g x i p ^^^ (if g.testBit p && decide (p ≤ i) then x (i - p) else 0)

/-- Element `a` of the encoding of `x` under the active configuration of `s`: generator `a mod G`, input bit `a div G`
(R12, R135, R140). -/
def encodedAt (s : State) (x : Nat → Bit) (a : Nat) : Bit :=
  convBit (s.genNum (a % s.gNum)) x (a / s.gNum) s.kNum

/-- The number of differing bits among the first `n` (R13, R156). -/
def hamming (e x : Nat → Bit) (n : Nat) : Nat :=
  match n with
  | 0 => 0
  | n + 1 => hamming e x n + (if e n = x n then 0 else 1)

/-- The first `n` elements of a memory hold the sequence `x` (R12, R36). -/
def Holds (m : Memory Bit) (x : Nat → Bit) (n : Nat) : Prop := ∀ i, i < n → Memory.read m i = some (x i)

/-- The Hamming distance between the `G` bits generator outputs give for branch `c` and the input group at `base`
(R156). -/
def branchCost (s : State) (x : Nat → Bit) (c base : Nat) : Nat :=
  hamming (fun j => tapParity (s.genNum j) c s.kNum) (fun j => x (base + j)) s.gNum

/-- A cell is reachable: its cost is finite (R38, R40). -/
def Reachable (s : State) (t st : Nat) : Prop := s.costAt t st ≠ s.inf

/-! ### Frames -/

/-- The staged configuration and IN_LEN are unchanged (R26, R31). -/
def SameStaged (s t : State) : Prop :=
  t.kIn = s.kIn ∧ t.gIn = s.gIn ∧ t.ctrlIn = s.ctrlIn ∧ t.genIn = s.genIn ∧ t.inLen = s.inLen

/-- The active configuration and STATUS.CONFIGURED are unchanged (R23, R27). -/
def SameActive (s t : State) : Prop :=
  t.k = s.k ∧ t.g = s.g ∧ t.ctrl = s.ctrl ∧ t.gen = s.gen ∧ t.configured = s.configured

/-- The parameters, the model's counter, the HOST agent's own data and its recorded hazard are unchanged. -/
def SameHost (s t : State) : Prop :=
  t.params = s.params ∧ t.freeEpoch = s.freeEpoch ∧ t.schedule = s.schedule ∧ t.reads = s.reads ∧
  t.hazard = s.hazard

/-- Every element of IN_MEM reads as before. -/
def SameInput (s t : State) : Prop := ∀ a, Memory.read t.inMem a = Memory.read s.inMem a

/-- Every element of OUT_MEM reads as before. -/
def SameOutput (s t : State) : Prop := ∀ a, Memory.read t.outMem a = Memory.read s.outMem a

/-- Every cell of COST and every entry of BP is as before. -/
def SameTrellis (s t : State) : Prop := ∀ a, t.costCell a = s.costCell a ∧ t.bpCell a = s.bpCell a

/-! ### Turns -/

/-- The next step is the ENGINE's. -/
def EngineTurn (s : State) : Prop := s.schedule = [] ∨ s.schedule.head? = some .engine

/-- `s` with its next turn taken off the schedule. -/
def takeTurn (s : State) : State := { s with schedule := s.schedule.tail }

/-- The core's state alone, without the HOST agent's schedule, its words, the busy window it must keep and the record of
its breaking it (R49, R75, R234). -/
def eraseHost (s : State) : State := { s with schedule := [], reads := [], pollDue := false, hazard := false }

/-- A turn that a host may take in R234's window beside the ENGINE's: a STATUS read. -/
def PollOrEngine (s : State) (turn : Turn) : Prop :=
  turn = .engine ∨ ∃ a, turn = .host (.read a) ∧ s.isStatusRead a = true

/-- The run from `s` ends in `t` (R243): some number of steps leads there without a fault, and the run is over. -/
def EndsIn (s t : State) : Prop := ∃ n, Host.Core.run core n s = .next t ∧ t.runOver = true

/-- The next turn keeps the busy rule R234: in the window only STATUS reads, the ENGINE's turns and reset (R232). -/
def HazardFree (s : State) : Prop :=
  s.pollDue = true →
    (∀ a, s.schedule.head? = some (.host (.read a)) → s.isStatusRead a = true) ∧
    (∀ a w, s.schedule.head? ≠ some (.host (.write a w)))

/-! ### Invariants -/

/-- The phases in which a DECODE is past its checks. -/
def decoding : Phase → Bool
  | .decInit => true
  | .decAcs => true
  | .decSel => true
  | .decTb => true
  | .idle => false
  | .check => false
  | .cfgCommit => false
  | .encStep => false

/-- The command word a working phase belongs to (R208); none for IDLE and CHECK. -/
def phaseCommand : Phase → Option Instr
  | .cfgCommit => some .configure
  | .encStep => some .encode
  | .decInit => some .decode
  | .decAcs => some .decode
  | .decSel => some .decode
  | .decTb => some .decode
  | .idle => none
  | .check => none

/-- What holds of every state the machine can be in: sizes and widths (R6, R20, R33 to R39), canonical memories,
R28, R30, R43, and what a command's checks established for its later phases (R66, R208). -/
structure CoreInv (s : State) : Prop where
  legal : s.params.legal
  genInLength : s.genIn.length = s.params.gMax
  genLength : s.gen.length = s.params.gMax
  inMemForm : Memory.wf s.inMem ∧ ∀ x ∈ s.inMem, x.1 < s.params.lMax
  outMemForm : Memory.wf s.outMem ∧ ∀ x ∈ s.outMem, x.1 < s.params.lMax
  costForm : Memory.wf s.cost ∧
    ∀ x ∈ s.cost, x.1 < (s.params.nMax + 1) * 2 ^ (s.params.kMax - 1) ∧ x.2 ≤ s.inf
  bpForm : Memory.wf s.bp ∧
    ∀ x ∈ s.bp, x.1 < (s.params.nMax + 1) * 2 ^ (s.params.kMax - 1) ∧ x.2.pred < 2 ^ (s.params.kMax - 1)
  encWidth : s.encState < 2 ^ (s.params.kMax - 1)
  siWidth : s.si < 2 ^ (s.params.kMax - 1)
  fstWidth : s.fst < 2 ^ (s.params.kMax - 1)
  busyPhase : s.busy = true ↔ s.phase ≠ .idle
  busyDue : s.busy = true → s.pollDue = true
  ctrlInReserved : s.ctrlIn.toNat ≤ 1
  ctrlReserved : s.ctrl.toNat ≤ 1
  configuredRange : s.configured = true →
    (1 ≤ s.kNum ∧ s.kNum ≤ s.params.kMax) ∧ (1 ≤ s.gNum ∧ s.gNum ≤ s.params.gMax)
  phaseWord : ∀ i, phaseCommand s.phase = some i → s.opc = encode i
  committing : s.phase = .cfgCommit → s.stagedInvalid = false ∧ s.stagedTooLarge = false
  encoding : s.phase = .encStep →
    s.configured = true ∧ s.encodeTooLarge = false ∧ s.iIdx.toNat ≤ s.inLen.toNat ∧ s.encState < s.stateCount
  decodingSize : decoding s.phase = true →
    s.configured = true ∧ s.decodeTooLarge = false ∧ s.inLen.toNat = s.nSteps.toNat * s.gNum
  forward : s.phase = .decAcs → s.t.toNat < s.nSteps.toNat ∧ s.si < s.stateCount
  selecting : s.phase = .decSel → 0 < s.nSteps.toNat
  tracing : s.phase = .decTb → s.t.toNat ≤ s.nSteps.toNat

/-- A reachable cell is sound (R161, R163): its cost is at most `t*G`; at time 0 it is state 0; later, its entry is
valid and is a transition from a reachable predecessor. -/
def CellSound (s : State) (t st : Nat) : Prop :=
  s.costAt t st ≤ t * s.gNum ∧
  (t = 0 → st = 0) ∧
  (∀ t', t = t' + 1 →
    (s.bpAt t st).valid = true ∧
    (s.bpAt t st).pred < s.stateCount ∧
    Reachable s t' (s.bpAt t st).pred ∧
    s.nextState (shiftIn (s.bpAt t st).pred (s.bpAt t st).dec) = st)

/-- The trellis of a running DECODE (R161, R162, R163): every reachable cell is sound; the finished columns are
reachable exactly below `2^min(t, K-1)`; the column being filled is reachable exactly where a candidate already taken
leads; traceback holds a reachable state. -/
structure TrellisInv (s : State) : Prop where
  sound : s.phase = .decAcs ∨ s.phase = .decSel ∨ s.phase = .decTb →
    ∀ t st, t ≤ s.nSteps.toNat → st < s.stateCount → Reachable s t st → CellSound s t st
  finished : s.phase = .decAcs → ∀ t st, t ≤ s.t.toNat → st < s.stateCount →
    (Reachable s t st ↔ st < 2 ^ min t (s.kNum - 1))
  filling : s.phase = .decAcs → ∀ st, st < s.stateCount →
    (Reachable s (s.t.toNat + 1) st ↔
      ∃ c, c < 2 * s.si + s.b.toNat ∧ Reachable s s.t.toNat (c / 2) ∧ s.nextState c = st)
  untouched : s.phase = .decAcs → ∀ t st, s.t.toNat + 1 < t → t ≤ s.nSteps.toNat → st < s.stateCount →
    ¬ Reachable s t st
  selected : s.phase = .decSel → ∀ t st, t ≤ s.nSteps.toNat → st < s.stateCount →
    (Reachable s t st ↔ st < 2 ^ min t (s.kNum - 1))
  held : s.phase = .decTb → s.fst < s.stateCount ∧ Reachable s s.t.toNat s.fst

end Sys2Proof.Safety
end

