-- ==== Sys2Proof/Certificates/Slice0/Obligations.lean ====
section
/-! DEFINITION. The statements about the machine, one per group of rules of spec/. Each docstring names its rules. -/

open Sys2Proof Sys2Proof.Machine Sys2Proof.Safety

/-! ### Command words -/

/-- R93: the three command words, each a whole-word match; every other word is illegal. -/
def Obligations.CommandWords : Prop :=
  ∀ w : Word,
    (decodeWord w = .ok .configure ↔ w = 0x00000001#32) ∧
    (decodeWord w = .ok .encode ↔ w = 0x00000002#32) ∧
    (decodeWord w = .ok .decode ↔ w = 0x00000003#32) ∧
    (w ≠ 0x00000001#32 → w ≠ 0x00000002#32 → w ≠ 0x00000003#32 → ∃ e, decodeWord w = .error e)

/-- R94: which reserved or illegal word is named how: RSVD ≠ 0 whatever OP is, otherwise OP = 0 or 4 to 15. -/
def Obligations.ReservedWordsNamed : Prop :=
  ∀ w : Word,
    (16 ≤ w.toNat → ∃ r, decodeWord w = .error (.reservedBits r) ∧ r.toNat = w.toNat / 16) ∧
    (w.toNat < 16 → (w.toNat = 0 ∨ 4 ≤ w.toNat) →
      ∃ op, decodeWord w = .error (.reservedOp op) ∧ op.toNat = w.toNat)

/-- R92, R93: decoding an encoded well-formed command gives it back, and a word that decodes is that encoding. -/
def Obligations.EncodeDecodeAgree : Prop :=
  ∀ i : Instr, i.wellFormed = true → ∀ w : Word, decodeWord w = .ok i ↔ w = encode i

/-- R93, opcode_table.json: the table's rows, as the table numbers them, and four words R94 makes illegal. That the
table's bit 0 is the CMD word's bit 0 is how the model reads the table (log entry 9). -/
def Obligations.TableRowsDecode : Prop :=
  decodeTableWord 32 0x00000001 = some .configure ∧
  decodeTableWord 32 0x00000002 = some .encode ∧
  decodeTableWord 32 0x00000003 = some .decode ∧
  decodeTableWord 32 0x00000000 = none ∧
  decodeTableWord 32 0x00000004 = none ∧
  decodeTableWord 32 0x00000011 = none ∧
  decodeTableWord 32 0x80000002 = none

/-! ### The step -/

/-- R46, R208, R219: on the ENGINE's turn, CHECK runs the command the accepted word decodes to, and a working phase
runs the command that phase belongs to; the only thing the step adds is taking the turn off the schedule. In IDLE the
ENGINE has no step of its own and the core holds all its state. Whose turn it is, is the model's own data (log entry
2). -/
def Obligations.StepRunsDecodedCommand : Prop :=
  ∀ s : State, EngineTurn s →
    (∀ i : Instr, (s.phase = .check ∧ decodeWord s.opc = .ok i) ∨ phaseCommand s.phase = some i →
      step s = exec i (takeTurn s)) ∧
    (s.phase = .idle → step s = .next (takeTurn s))

/-- R205: any accepted CMD word other than 1, 2 and 3 ends in CHECK with code 5, and nothing else changes. Whose turn
it is, is the model's own data (log entry 2). -/
def Obligations.IllegalWordReports : Prop :=
  ErrCode.illegalCommand.number = 5#4 ∧
  ∀ s : State, EngineTurn s → s.phase = .check →
    s.opc ≠ 0x00000001#32 → s.opc ≠ 0x00000002#32 → s.opc ≠ 0x00000003#32 →
    step s = .next { takeTurn s with err := .illegalCommand, busy := false, phase := .idle }

/-- R21, R24, R110, R130, R150, R234: a CMD write while BUSY = 0 latches the word, sets BUSY, enters CHECK and opens
the busy window, and does nothing else to the core. The meaning of each command answers that acceptance, with its own
word, in IDLE. The forms of the window and of the record noteAccess keeps where the write breaks R234, and the meaning
of a command in IDLE, are the model's own (log entries 4 and 8). -/
def Obligations.CommandAccepted : Prop :=
  ∀ s : State,
    (∀ w, s.busy = false → hostWrite 0x00000000#32 w s =
      .next { s.noteAccess with opc := w, busy := true, phase := .check, pollDue := true }) ∧
    (s.phase = .idle →
      exec .configure s = .next { s with opc := 1, busy := true, phase := .check, pollDue := true } ∧
      exec .encode s = .next { s with opc := 2, busy := true, phase := .check, pollDue := true } ∧
      exec .decode s = .next { s with opc := 3, busy := true, phase := .check, pollDue := true })

/-! ### CONFIGURE -/

/-- R111: CONFIGURE fails with INVALID_CONFIGURATION exactly when `signed32(K_IN) <= 0` or `G_IN = 0`. -/
def Obligations.ConfigureInvalid : Prop :=
  ErrCode.invalidConfiguration.number = 1#4 ∧
  ∀ s : State, s.phase = .check →
    (exec .configure s = .next { s with err := .invalidConfiguration, busy := false, phase := .idle } ↔
      (s.kIn.toInt ≤ 0 ∨ s.gIn = 0))

/-- R112: if R111 does not apply, CONFIGURE fails with CAPACITY exactly when `signed32(K_IN) > K_MAX` or
`G_IN > G_MAX`. -/
def Obligations.ConfigureOverCapacity : Prop :=
  ErrCode.capacity.number = 4#4 ∧
  ∀ s : State, s.phase = .check → ¬ (s.kIn.toInt ≤ 0 ∨ s.gIn = 0) →
    (exec .configure s = .next { s with err := .capacity, busy := false, phase := .idle } ↔
      (s.kIn.toInt > s.params.kMax ∨ s.gIn.toNat > s.params.gMax))

/-- R208: if neither R111 nor R112 applies, CHECK of CONFIGURE only moves on to CFG_COMMIT. -/
def Obligations.ConfigurePassesChecks : Prop :=
  ∀ s : State, s.phase = .check →
    0 < s.kIn.toInt → s.kIn.toInt ≤ s.params.kMax → s.gIn ≠ 0 → s.gIn.toNat ≤ s.params.gMax →
    exec .configure s = .next { s with phase := .cfgCommit }

/-- R113, R114, R116: CFG_COMMIT copies the staged configuration, every generator verbatim, in one step that also ends
the command, and changes nothing else. -/
def Obligations.ConfigureCommits : Prop :=
  ∀ s : State, s.phase = .cfgCommit →
    exec .configure s = .next
      { s with
        k := s.kIn
        g := s.gIn
        ctrl := if s.ctrlIn.getLsbD 0 then 1 else 0
        gen := s.genIn
        configured := true
        err := .none
        busy := false
        phase := .idle }

/-- R21, R110, R234, R241: from its CMD write, made while BUSY = 0, a CONFIGURE with a valid staged configuration
completes in two engine steps with the staged configuration active. That a CMD write made while BUSY = 0 takes effect
in R234's window too, before the host has read STATUS, is the model's choice, which leaves the fault of R234 recorded
(log entry 4). -/
def Obligations.ConfigureRuns : Prop :=
  ∀ s : State, s.busy = false → 0 < s.kIn.toInt → s.kIn.toInt ≤ s.params.kMax →
    s.gIn ≠ 0 → s.gIn.toNat ≤ s.params.gMax →
    ∃ a t, hostWrite 0x00000000#32 0x00000001#32 s = .next a ∧ engineRun 2 a = .next t ∧
      t.k = s.kIn ∧ t.g = s.gIn ∧ t.ctrl.toNat = s.ctrlIn.toNat % 2 ∧ t.gen = s.genIn ∧
      t.configured = true ∧ t.err = .none ∧ t.busy = false ∧ t.phase = .idle ∧
      t.outLen = s.outLen ∧ SameStaged s t ∧ SameInput s t ∧ SameOutput s t ∧
      t.hazard = (s.hazard || s.pollDue)

/-- R72, R115, R116: the frame of CONFIGURE. It writes the active configuration and CONFIGURED in CFG_COMMIT only. -/
def Obligations.ConfigureFrame : Prop :=
  ∀ s t : State, exec .configure s = .next t →
    SameStaged s t ∧ SameHost s t ∧ SameInput s t ∧ SameOutput s t ∧ SameTrellis s t ∧
    t.outLen = s.outLen ∧ t.encState = s.encState ∧ t.iIdx = s.iIdx ∧ t.nSteps = s.nSteps ∧
    t.t = s.t ∧ t.si = s.si ∧ t.b = s.b ∧ t.fst = s.fst ∧
    (s.phase ≠ .cfgCommit → SameActive s t) ∧
    (t.phase ≠ .idle → t.err = s.err) ∧
    (s.phase ≠ .idle → t.opc = s.opc ∧ t.pollDue = s.pollDue)

/-- R118: only CFG_COMMIT writes K, G, CTRL and GEN, with the staged values; reset sets them to 0. Whose turn it is,
is the model's own data (log entry 2). -/
def Obligations.ActiveConfigurationImmutable : Prop :=
  ∀ s t : State, step s = .next t →
    (t.k = s.k ∧ t.g = s.g ∧ t.ctrl = s.ctrl ∧ t.gen = s.gen) ∨
    (EngineTurn s ∧ s.phase = .cfgCommit ∧ t.k = s.kIn ∧ t.g = s.gIn ∧
      t.ctrl.toNat = s.ctrlIn.toNat % 2 ∧ t.gen = s.genIn) ∨
    (s.schedule.head? = some (.host .reset) ∧ t.k = 0 ∧ t.g = 0 ∧ t.ctrl = 0 ∧ ∀ j, t.gen.getD j 0 = 0)

/-- R23: CONFIGURED is set by a successful CONFIGURE only, cleared by reset only; and while it is 0, ENCODE and DECODE
complete with NOT_CONFIGURED, code 3. Whose turn it is, is the model's own data (log entry 2). -/
def Obligations.ConfiguredWriters : Prop :=
  ErrCode.notConfigured.number = 3#4 ∧
  (∀ s t : State, step s = .next t → t.configured ≠ s.configured →
    (EngineTurn s ∧ s.phase = .cfgCommit ∧ t.configured = true ∧ t.err = .none) ∨
    (s.schedule.head? = some (.host .reset) ∧ t.configured = false)) ∧
  (∀ s : State, s.phase = .check → s.configured = false →
    exec .encode s = .next { s with err := .notConfigured, busy := false, phase := .idle } ∧
    exec .decode s = .next { s with err := .notConfigured, busy := false, phase := .idle })

/-! ### ENCODE -/

/-- R131: NOT_CONFIGURED if CONFIGURED = 0; otherwise CAPACITY if `IN_LEN * G > L_MAX`, the product exact; and a product
within L_MAX bounds IN_LEN by L_MAX, since G ≥ 1. -/
def Obligations.EncodeChecks : Prop :=
  ErrCode.notConfigured.number = 3#4 ∧ ErrCode.capacity.number = 4#4 ∧
  ∀ s : State, s.phase = .check →
    (s.configured = false →
      exec .encode s = .next { s with err := .notConfigured, busy := false, phase := .idle }) ∧
    (s.configured = true →
      (exec .encode s = .next { s with err := .capacity, busy := false, phase := .idle } ↔
        s.inLen.toNat * s.g.toNat > s.params.lMax)) ∧
    (1 ≤ s.g.toNat → s.inLen.toNat * s.g.toNat ≤ s.params.lMax → s.inLen.toNat ≤ s.params.lMax)

/-- R132: every ENCODE that passes its checks starts from ENC_STATE = 0, whatever an earlier ENCODE left there. -/
def Obligations.EncodeStartsFromZero : Prop :=
  ∀ s : State, s.phase = .check → s.configured = true → s.inLen.toNat * s.g.toNat ≤ s.params.lMax →
    exec .encode s = .next { s with encState := 0, iIdx := 0, phase := .encStep }

/-- R133, R134, R135: one ENC_STEP at an input bit `x`. `combined` is `2*ENC_STATE + x`; output `j` is the XOR of its
bits at the positions `0..K-1` generator `j` selects, at `OUT_MEM[I*G + j]`; ENC_STATE keeps the low K-1 bits; I
advances; nothing else changes. -/
def Obligations.EncodeStepShifts : Prop :=
  ∀ (s : State) (x : Bit), s.phase = .encStep → s.iIdx ≠ s.inLen →
    Memory.read s.inMem s.iIdx.toNat = some x →
    ∃ t, exec .encode s = .next t ∧
      t.encState = (2 * s.encState + x.toNat) % 2 ^ (s.k.toNat - 1) ∧
      t.iIdx = s.iIdx + 1 ∧
      (∀ j, j < s.g.toNat → Memory.read t.outMem (s.iIdx.toNat * s.g.toNat + j) =
        some (tapParity (s.gen.getD j 0).toNat (2 * s.encState + x.toNat) s.k.toNat)) ∧
      (∀ a, a < s.iIdx.toNat * s.g.toNat ∨ s.iIdx.toNat * s.g.toNat + s.g.toNat ≤ a →
        Memory.read t.outMem a = Memory.read s.outMem a) ∧
      t = { s with outMem := t.outMem, encState := t.encState, iIdx := t.iIdx }

/-- R36, R66, R139 (d), R154, R220 (b): an input element that holds no value is a model fault at the step that reads it:
in ENCODE the ENC_STEP of that element, in DECODE the DEC_ACS of a reachable state whose input group has such an element.
Which element of the group that fault names is the model's choice (log entry 14) and is left open here. -/
def Obligations.EncodeInputMustHold : Prop :=
  ∀ s : State,
    (s.phase = .encStep → s.iIdx ≠ s.inLen → Memory.read s.inMem s.iIdx.toNat = none →
      exec .encode s = .fault (.engineReadNoValue s.iIdx.toNat)) ∧
    (s.phase = .decAcs → s.costAt s.t.toNat s.si ≠ s.inf →
      (∃ j, j < s.gNum ∧ Memory.read s.inMem (s.t.toNat * s.gNum + j) = none) →
      ∃ j, j < s.gNum ∧ Memory.read s.inMem (s.t.toNat * s.gNum + j) = none ∧
        exec .decode s = .fault (.engineReadNoValue (s.t.toNat * s.gNum + j)))

/-- R136: at `I = IN_LEN` the step writes OUT_LEN, reports NONE and ends the command; it writes no OUT_MEM element. -/
def Obligations.EncodeCompletes : Prop :=
  ∀ s : State, s.phase = .encStep → s.iIdx = s.inLen → s.inLen.toNat * s.g.toNat < 2 ^ 32 →
    ∃ t, exec .encode s = .next t ∧ t.outLen.toNat = s.inLen.toNat * s.g.toNat ∧
      t = { s with outLen := t.outLen, err := .none, busy := false, phase := .idle }

/-- R135, R136, R137, R140, R141, R241: an ENCODE whose input holds values completes in `IN_LEN + 2` engine steps;
OUT_MEM then holds the convolution of the input with each generator and is otherwise as before; OUT_LEN is
`IN_LEN * G`; ENC_STATE holds the last K-1 input bits, with no flush. -/
def Obligations.EncodeRuns : Prop :=
  ∀ (s : State) (x : Nat → Bit), CoreInv s → s.phase = .check → s.opc = 0x00000002#32 → s.configured = true →
    s.inLen.toNat * s.g.toNat ≤ s.params.lMax → Holds s.inMem x s.inLen.toNat →
    ∃ t, engineRun (s.inLen.toNat + 2) s = .next t ∧
      t.phase = .idle ∧ t.busy = false ∧ t.err = .none ∧
      t.outLen.toNat = s.inLen.toNat * s.g.toNat ∧
      (∀ i j, i < s.inLen.toNat → j < s.g.toNat → Memory.read t.outMem (i * s.g.toNat + j) =
        some (convBit (s.gen.getD j 0).toNat x i s.k.toNat)) ∧
      (∀ a, s.inLen.toNat * s.g.toNat ≤ a → Memory.read t.outMem a = Memory.read s.outMem a) ∧
      (∀ p, p < s.k.toNat - 1 → t.encState.testBit p =
        (decide (p < s.inLen.toNat) && decide (x (s.inLen.toNat - 1 - p) = 1))) ∧
      SameStaged s t ∧ SameActive s t ∧ SameHost s t ∧ SameInput s t ∧ SameTrellis s t

/-- R138: with `IN_LEN = 0` and CONFIGURED = 1, ENCODE succeeds with OUT_LEN = 0, reading and writing no element. -/
def Obligations.EncodeEmptyInput : Prop :=
  ∀ s : State, s.phase = .check → s.opc = 0x00000002#32 → s.configured = true → s.inLen = 0 →
    engineRun 2 s =
      .next { s with encState := 0, iIdx := 0, outLen := 0, err := .none, busy := false, phase := .idle }

/-- R72: the frame of ENCODE. Only an ENC_STEP writes OUT_MEM, and only the G elements from `I*G`. -/
def Obligations.EncodeFrame : Prop :=
  ∀ s t : State, exec .encode s = .next t →
    SameStaged s t ∧ SameActive s t ∧ SameHost s t ∧ SameInput s t ∧ SameTrellis s t ∧
    t.nSteps = s.nSteps ∧ t.t = s.t ∧ t.si = s.si ∧ t.b = s.b ∧ t.fst = s.fst ∧
    (∀ a, (s.phase = .encStep ∧ s.iIdx.toNat * s.gNum ≤ a ∧ a < s.iIdx.toNat * s.gNum + s.gNum) ∨
      Memory.read t.outMem a = Memory.read s.outMem a) ∧
    (¬ (s.phase = .encStep ∧ t.phase = .idle) → t.outLen = s.outLen) ∧
    (t.phase ≠ .encStep → t.encState = s.encState ∧ t.iIdx = s.iIdx ∧ SameOutput s t) ∧
    (t.phase ≠ .idle → t.err = s.err) ∧
    (s.phase ≠ .idle → t.opc = s.opc ∧ t.pollDue = s.pollDue)

/-! ### DECODE: checks, initialisation and the trellis engine -/

/-- R151: the three checks in their order, before any trellis cell is written. -/
def Obligations.DecodeChecks : Prop :=
  ErrCode.notConfigured.number = 3#4 ∧ ErrCode.invalidInputLength.number = 2#4 ∧ ErrCode.capacity.number = 4#4 ∧
  ∀ s : State, s.phase = .check →
    (s.configured = false →
      exec .decode s = .next { s with err := .notConfigured, busy := false, phase := .idle }) ∧
    (s.configured = true →
      (exec .decode s = .next { s with err := .invalidInputLength, busy := false, phase := .idle } ↔
        s.inLen.toNat % s.g.toNat ≠ 0)) ∧
    (s.configured = true → s.inLen.toNat % s.g.toNat = 0 →
      (exec .decode s = .next { s with err := .capacity, busy := false, phase := .idle } ↔
        (s.inLen.toNat > s.params.lMax ∨ s.inLen.toNat / s.g.toNat > s.params.nMax)))

/-- R152, R208: a DECODE that passes its checks only takes `N = IN_LEN div G` and moves on to DEC_INIT. -/
def Obligations.DecodePassesChecks : Prop :=
  ∀ s : State, s.phase = .check → s.configured = true → s.inLen.toNat % s.g.toNat = 0 →
    s.inLen.toNat ≤ s.params.lMax → s.inLen.toNat / s.g.toNat ≤ s.params.nMax →
    ∃ t, exec .decode s = .next t ∧ t.nSteps.toNat = s.inLen.toNat / s.g.toNat ∧
      t = { s with nSteps := t.nSteps, phase := .decInit }

/-- R153: DEC_INIT with `N ≥ 1`. Every cell of `[0..N] × [0..S-1]` becomes INF and every entry VALID = 0, but for
`COST[0][0] = 0`; nothing outside is written; the forward pass starts at (0, 0, 0). -/
def Obligations.DecodeInitialises : Prop :=
  ∀ s : State, s.phase = .decInit → s.nSteps ≠ 0 →
    ∃ t, exec .decode s = .next t ∧
      (∀ n st, n ≤ s.nSteps.toNat → st < s.stateCount →
        t.costAt n st = (if n = 0 ∧ st = 0 then 0 else s.inf) ∧ (t.bpAt n st).valid = false) ∧
      (∀ a, (s.nSteps.toNat + 1) * s.stateCount ≤ a → t.costCell a = s.costCell a ∧ t.bpCell a = s.bpCell a) ∧
      t = { s with cost := t.cost, bp := t.bp, t := 0, si := 0, b := 0, phase := .decAcs }

/-- R164: DECODE with `IN_LEN = 0` completes in DEC_INIT with OUT_LEN = 0, after writing row 0 of COST and BP; it writes
no OUT_MEM element and reads no IN_MEM element. -/
def Obligations.DecodeEmptyInput : Prop :=
  ∀ s : State, s.phase = .check → s.opc = 0x00000003#32 → s.configured = true → s.inLen = 0 →
    ∃ t, engineRun 2 s = .next t ∧
      (∀ st, st < s.stateCount → t.costAt 0 st = (if st = 0 then 0 else s.inf) ∧ (t.bpAt 0 st).valid = false) ∧
      t = { s with cost := t.cost, bp := t.bp, nSteps := 0, outLen := 0, err := .none, busy := false, phase := .idle }

/-- R154: a candidate from an unreachable state only advances the counters. It needs no IN_MEM element. -/
def Obligations.UnreachableStateSkipped : Prop :=
  ∀ s : State, s.phase = .decAcs → s.costAt s.t.toNat s.si = s.inf →
    ∃ t, exec .decode s = .next t ∧ t = { s with t := t.t, si := t.si, b := t.b, phase := t.phase }

/-- R155, R156: a candidate from a reachable state. `combined = 2*SI + B`; the candidate cost is the cell's cost plus the
Hamming distance of the expected and the actual group, saturating at INF; it wins cell `(T+1, combined mod S)` only if
strictly less than what that cell holds, and then the entry records SI and B; no other cell is written. -/
def Obligations.AddCompareSelect : Prop :=
  ∀ (s : State) (x : Nat → Bit), s.phase = .decAcs → s.costAt s.t.toNat s.si ≠ s.inf →
    (∀ j, j < s.gNum → Memory.read s.inMem (s.t.toNat * s.gNum + j) = some (x (s.t.toNat * s.gNum + j))) →
    ∃ t, exec .decode s = .next t ∧
      (let c := min (s.costAt s.t.toNat s.si + branchCost s x (2 * s.si + s.b.toNat) (s.t.toNat * s.gNum)) s.inf
       let cell := (s.t.toNat + 1) * s.stateCount + (2 * s.si + s.b.toNat) % s.stateCount
       (c < s.costCell cell → t.costCell cell = c ∧ t.bpCell cell = { valid := true, pred := s.si, dec := s.b }) ∧
       (¬ c < s.costCell cell → t.costCell cell = s.costCell cell ∧ t.bpCell cell = s.bpCell cell) ∧
       (∀ a, a ≠ cell → t.costCell a = s.costCell a ∧ t.bpCell a = s.bpCell a)) ∧
      t = { s with cost := t.cost, bp := t.bp, t := t.t, si := t.si, b := t.b, phase := t.phase }

/-- R157, R165: the candidates are taken in lexicographic order of (t, s, b), and at `T = N` the sequencer hands over to
DEC_SEL. -/
def Obligations.CandidateOrder : Prop :=
  ∀ s t : State, s.phase = .decAcs → exec .decode s = .next t →
    (s.b = 0 → s.si < s.stateCount → t.b = 1 ∧ t.si = s.si ∧ t.t = s.t) ∧
    (s.b = 1 → s.si + 1 < s.stateCount → t.b = 0 ∧ t.si = s.si + 1 ∧ t.t = s.t) ∧
    (s.b = 1 → s.si + 1 = s.stateCount → t.b = 0 ∧ t.si = 0 ∧ t.t = s.t + 1) ∧
    t.phase = (if t.t = s.nSteps then .decSel else .decAcs)

/-- R159: for `K ≥ 2` the candidates into state `ns` are `b = ns[0]` from `ns >> 1` and `(ns >> 1) + S/2`; for `K = 1`
both input bits lead from state 0 into state 0. -/
def Obligations.PredecessorStructure : Prop :=
  ∀ (s : State) (st ns : Nat) (x : Bit), st < s.stateCount → ns < s.stateCount →
    (2 ≤ s.k.toNat →
      (s.nextState (shiftIn st x) = ns ↔
        x.toNat = ns % 2 ∧ (st = ns / 2 ∨ st = ns / 2 + s.stateCount / 2))) ∧
    (s.k.toNat = 1 → st = 0 ∧ ns = 0 ∧ s.nextState (shiftIn st x) = ns)

/-- R158: the order-free form of a column. After the `2*S` candidates of time step T, a state with no candidate is INF
with VALID = 0; any other state has the least candidate cost, and its entry is the lexicographically least candidate
that attains it. Column T is unchanged. -/
def Obligations.ForwardColumn : Prop :=
  ∀ (s : State) (x : Nat → Bit), CoreInv s → TrellisInv s → s.phase = .decAcs → s.si = 0 → s.b = 0 →
    (∀ st, st < s.stateCount → (s.bpAt (s.t.toNat + 1) st).valid = false) →
    Holds s.inMem x s.inLen.toNat →
    ∃ t, engineRun (2 * s.stateCount) s = .next t ∧ t.t = s.t + 1 ∧ t.si = 0 ∧ t.b = 0 ∧
      (∀ st, st < s.stateCount → t.costAt s.t.toNat st = s.costAt s.t.toNat st) ∧
      ∀ ns, ns < s.stateCount →
        ((∀ c, c < 2 * s.stateCount → Reachable s s.t.toNat (c / 2) → s.nextState c ≠ ns) →
          t.costAt (s.t.toNat + 1) ns = s.inf ∧ (t.bpAt (s.t.toNat + 1) ns).valid = false) ∧
        ((∃ c, c < 2 * s.stateCount ∧ Reachable s s.t.toNat (c / 2) ∧ s.nextState c = ns) →
          ∃ c, c < 2 * s.stateCount ∧ Reachable s s.t.toNat (c / 2) ∧ s.nextState c = ns ∧
            t.costAt (s.t.toNat + 1) ns =
              s.costAt s.t.toNat (c / 2) + branchCost s x c (s.t.toNat * s.gNum) ∧
            t.bpAt (s.t.toNat + 1) ns = { valid := true, pred := c / 2, dec := BitVec.ofNat 1 (c % 2) } ∧
            (∀ d, d < 2 * s.stateCount → Reachable s s.t.toNat (d / 2) → s.nextState d = ns →
              t.costAt (s.t.toNat + 1) ns ≤
                s.costAt s.t.toNat (d / 2) + branchCost s x d (s.t.toNat * s.gNum)) ∧
            (∀ d, d < c → Reachable s s.t.toNat (d / 2) → s.nextState d = ns →
              t.costAt (s.t.toNat + 1) ns <
                s.costAt s.t.toNat (d / 2) + branchCost s x d (s.t.toNat * s.gNum)))

/-! ### DECODE: terminal state and traceback -/

/-- R181: under MIN_COST the terminal state is the least state whose cost at time N is the minimum, and in a running
DECODE that cost is finite. -/
def Obligations.MinCostTerminal : Prop :=
  ∀ s : State, s.phase = .decSel → s.ctrl.getLsbD 0 = false →
    ∃ t, exec .decode s = .next t ∧ t.fst < s.stateCount ∧
      (∀ st, st < s.stateCount → s.costAt s.nSteps.toNat t.fst ≤ s.costAt s.nSteps.toNat st) ∧
      (∀ st, st < t.fst → s.costAt s.nSteps.toNat t.fst < s.costAt s.nSteps.toNat st) ∧
      (CoreInv s → TrellisInv s → Reachable s s.nSteps.toNat t.fst) ∧
      t = { s with fst := t.fst, t := s.nSteps, phase := .decTb }

/-- R182: under ZERO_STATE the terminal state is 0 whatever the costs, and in a running DECODE its cost is finite. -/
def Obligations.ZeroStateTerminal : Prop :=
  ∀ s : State, s.phase = .decSel → s.ctrl.getLsbD 0 = true →
    exec .decode s = .next { s with fst := 0, t := s.nSteps, phase := .decTb } ∧
    (CoreInv s → TrellisInv s → Reachable s s.nSteps.toNat 0)

/-- R183, R184: one traceback step writes the entry's decision bit to `OUT_MEM[T-1]`, moves to its predecessor and
decrements T; nothing else changes. -/
def Obligations.TracebackStep : Prop :=
  ∀ s : State, s.phase = .decTb → s.t ≠ 0 → (s.bpAt s.t.toNat s.fst).valid = true →
    ∃ t, exec .decode s = .next t ∧
      Memory.read t.outMem (s.t.toNat - 1) = some (s.bpAt s.t.toNat s.fst).dec ∧
      (∀ a, a ≠ s.t.toNat - 1 → Memory.read t.outMem a = Memory.read s.outMem a) ∧
      t.t.toNat = s.t.toNat - 1 ∧
      t = { s with outMem := t.outMem, fst := (s.bpAt s.t.toNat s.fst).pred, t := t.t }

/-- R184: for `K ≥ 2` the decided bit is the held state's low bit. -/
def Obligations.DecisionBitIsLowBit : Prop :=
  ∀ s : State, CoreInv s → TrellisInv s → s.phase = .decTb → s.t ≠ 0 → 2 ≤ s.k.toNat →
    (s.bpAt s.t.toNat s.fst).valid = true ∧ (s.bpAt s.t.toNat s.fst).dec.toNat = s.fst % 2

/-- R185, R220 (e): an entry with VALID = 0 is an internal-consistency fault, not a value. -/
def Obligations.InvalidBackPointerFaults : Prop :=
  ∀ s : State, s.phase = .decTb → s.t ≠ 0 → (s.bpAt s.t.toNat s.fst).valid = false →
    exec .decode s = .fault .invalidBackPointer

/-- R186: at `T = 0` the step writes `OUT_LEN = N`, reports NONE and ends the command; FST is then 0. -/
def Obligations.DecodeCompletes : Prop :=
  ∀ s : State, s.phase = .decTb → s.t = 0 →
    exec .decode s = .next { s with outLen := s.nSteps, err := .none, busy := false, phase := .idle } ∧
    (CoreInv s → TrellisInv s → s.fst = 0)

/-- R166, R186, R241: a DECODE past its checks, whose input holds values, always completes, in the steps R241 counts,
with ERR = NONE and exactly N decoded bits; every OUT_MEM element at and above N is as before. -/
def Obligations.DecodeRuns : Prop :=
  ∀ (s : State) (x : Nat → Bit), CoreInv s → s.phase = .check → s.opc = 0x00000003#32 → s.configured = true →
    s.inLen.toNat % s.g.toNat = 0 → s.inLen.toNat ≤ s.params.lMax → s.inLen.toNat / s.g.toNat ≤ s.params.nMax →
    1 ≤ s.inLen.toNat → Holds s.inMem x s.inLen.toNat →
    ∃ (t : State) (y : Nat → Bit),
      engineRun (2 + 2 * (s.inLen.toNat / s.g.toNat) * s.stateCount + 1 + (s.inLen.toNat / s.g.toNat + 1)) s = .next t ∧
      t.phase = .idle ∧ t.busy = false ∧ t.err = .none ∧
      t.outLen.toNat = s.inLen.toNat / s.g.toNat ∧
      Holds t.outMem y (s.inLen.toNat / s.g.toNat) ∧
      (∀ a, s.inLen.toNat / s.g.toNat ≤ a → Memory.read t.outMem a = Memory.read s.outMem a) ∧
      SameStaged s t ∧ SameActive s t ∧ SameHost s t ∧ SameInput s t

/-- R1, R158, R181: under MIN_COST the decoder is maximum-likelihood: no sequence of N bits encodes closer to the input,
in Hamming distance, than the one a DECODE leaves in OUT_MEM. -/
def Obligations.DecodeIsMaximumLikelihood : Prop :=
  ∀ (s t : State) (x y : Nat → Bit) (n : Nat), CoreInv s → s.phase = .check → s.opc = 0x00000003#32 →
    s.configured = true → s.ctrl.getLsbD 0 = false → s.inLen.toNat % s.g.toNat = 0 →
    s.inLen.toNat ≤ s.params.lMax → s.inLen.toNat / s.g.toNat ≤ s.params.nMax → 1 ≤ s.inLen.toNat →
    Holds s.inMem x s.inLen.toNat → engineRun n s = .next t → t.phase = .idle →
    Holds t.outMem y (s.inLen.toNat / s.g.toNat) →
    ∀ z : Nat → Bit,
      hamming (encodedAt s y) x s.inLen.toNat ≤ hamming (encodedAt s z) x s.inLen.toNat

/-- R188: if some generator `j < G` has bit 0 set and the policy is MIN_COST, DECODE of the encoding of `z` leaves `z` in
OUT_MEM. -/
def Obligations.RoundTrip : Prop :=
  ∀ (s t : State) (z : Nat → Bit) (n : Nat), CoreInv s → s.phase = .check → s.opc = 0x00000003#32 →
    s.configured = true → s.ctrl.getLsbD 0 = false →
    (∃ j, j < s.g.toNat ∧ (s.gen.getD j 0).getLsbD 0 = true) →
    s.inLen.toNat % s.g.toNat = 0 → s.inLen.toNat ≤ s.params.lMax →
    s.inLen.toNat / s.g.toNat ≤ s.params.nMax → 1 ≤ s.inLen.toNat →
    Holds s.inMem (encodedAt s z) s.inLen.toNat → engineRun n s = .next t → t.phase = .idle →
    Holds t.outMem z (s.inLen.toNat / s.g.toNat)

/-- R72: the frame of DECODE. DEC_INIT writes cells of `[0..N] × [0..S-1]` only, DEC_ACS one cell at most, DEC_TB one
OUT_MEM element at most. -/
def Obligations.DecodeFrame : Prop :=
  ∀ s t : State, exec .decode s = .next t →
    SameStaged s t ∧ SameActive s t ∧ SameHost s t ∧ SameInput s t ∧
    t.encState = s.encState ∧ t.iIdx = s.iIdx ∧
    (∀ a, (s.phase = .decTb ∧ a = s.t.toNat - 1) ∨ Memory.read t.outMem a = Memory.read s.outMem a) ∧
    (∀ a, (s.phase = .decInit ∧ a < (s.nSteps.toNat + 1) * s.stateCount) ∨
      (s.phase = .decAcs ∧ a = s.cellIndex (s.t.toNat + 1) (s.nextState (shiftIn s.si s.b))) ∨
      (t.costCell a = s.costCell a ∧ t.bpCell a = s.bpCell a)) ∧
    (¬ (s.phase ≠ .check ∧ t.phase = .idle) → t.outLen = s.outLen) ∧
    (s.phase ≠ .check → t.nSteps = s.nSteps) ∧
    (s.phase = .idle ∨ s.phase = .check → t.t = s.t ∧ t.si = s.si ∧ t.b = s.b) ∧
    (s.phase ≠ .decSel → s.phase ≠ .decTb → t.fst = s.fst) ∧
    (t.phase ≠ .idle → t.err = s.err) ∧
    (s.phase ≠ .idle → t.opc = s.opc ∧ t.pollDue = s.pollDue)

/-! ### Errors and completion -/

/-- R207: an error is reported in CHECK and nowhere else, an illegal command word's included, and a command that fails
there changes ERR, BUSY and PHASE, and nothing else. Whose turn it is, is the model's own data (log entry 2). -/
def Obligations.FailedCommandOnlyReports : Prop :=
  ∀ s t : State, EngineTurn s → s.phase ≠ .idle → step s = .next t → t.phase = .idle →
    (t.err ≠ .none ↔ s.phase = .check) ∧
    (s.phase = .check → t = { takeTurn s with err := t.err, busy := false, phase := .idle })

/-- R24, R25, R210, R220, R234: BUSY rises only at an accepted CMD write and falls only in the engine step that
completes a command or at reset; ERR changes only in a completing step or at reset; the busy window opens only at an
accepted CMD write and closes only at a STATUS read with BUSY = 0 or at reset; and after a step the recorded hazard is
there exactly if it was there before, since it is never cleared, or the step broke the busy rule. Whose turn it is,
the field pollDue and the record are the model's own data (log entries 2 and 4). -/
def Obligations.CompletionSteps : Prop :=
  ∀ s t : State, step s = .next t →
    (s.busy = false → t.busy = true →
      ∃ a w, s.schedule.head? = some (.host (.write a w)) ∧ decodeAddr s.params a = some .cmd ∧ t.opc = w ∧
        t.phase = .check) ∧
    (s.busy = true → t.busy = false →
      (EngineTurn s ∧ s.phase ≠ .idle ∧ t.phase = .idle) ∨ s.schedule.head? = some (.host .reset)) ∧
    (t.err ≠ s.err →
      (EngineTurn s ∧ s.phase ≠ .idle ∧ t.phase = .idle ∧ t.busy = false) ∨
      (s.schedule.head? = some (.host .reset) ∧ t.err = .none)) ∧
    (s.pollDue = false → t.pollDue = true →
      ∃ a w, s.schedule.head? = some (.host (.write a w)) ∧ decodeAddr s.params a = some .cmd ∧ t.busy = true) ∧
    (s.pollDue = true → t.pollDue = false →
      (∃ a, s.schedule.head? = some (.host (.read a)) ∧ decodeAddr s.params a = some .status ∧ s.busy = false) ∨
      s.schedule.head? = some (.host .reset)) ∧
    (t.hazard = true ↔ s.hazard = true ∨ ¬ HazardFree s)

/-! ### The host interface -/

/-- R61, R62: the address map is a bijection between mapped addresses and targets. -/
def Obligations.AddressMap : Prop :=
  ∀ p : Params, p.legal →
    (∀ a tgt, decodeAddr p a = some tgt → tgt.addr = a) ∧
    (∀ tgt ∈ [Target.cmd, .status, .kIn, .gIn, .ctrlIn, .inLen, .outLen, .k, .g, .ctrl],
      decodeAddr p tgt.addr = some tgt) ∧
    (∀ j, j < p.gMax → decodeAddr p (Target.genIn j).addr = some (.genIn j) ∧
      decodeAddr p (Target.gen j).addr = some (.gen j)) ∧
    (∀ i, i < p.lMax → decodeAddr p (Target.inMem i).addr = some (.inMem i) ∧
      decodeAddr p (Target.outMem i).addr = some (.outMem i))

/-- R67: an address that is no register offset of R62, no window index below L_MAX and no mapped region faults, read
or written. Which fault is named where the busy rule R234 is broken too, the busy hazard's while BUSY = 1 and the
unmapped access's in the rest of its window, is the model's choice (log entry 15). -/
def Obligations.UnmappedAccessFaults : Prop :=
  ∀ (s : State) (a w : Word), s.params.legal →
    (let f := if s.busy then Fault.busyHazard else Fault.unmappedAccess a
     (a.toNat < 0x10000000 → ¬ a.toNat ≤ 0x006 → ¬ (0x008 ≤ a.toNat ∧ a.toNat ≤ 0x00A) →
      ¬ (0x100 ≤ a.toNat ∧ a.toNat < 0x100 + s.params.gMax) →
      ¬ (0x200 ≤ a.toNat ∧ a.toNat < 0x200 + s.params.gMax) →
      hostRead a s = .fault f ∧ hostWrite a w s = .fault f) ∧
     (0x10000000 + s.params.lMax ≤ a.toNat → a.toNat < 0x20000000 →
      hostRead a s = .fault f ∧ hostWrite a w s = .fault f) ∧
     (0x20000000 + s.params.lMax ≤ a.toNat →
      hostRead a s = .fault f ∧ hostWrite a w s = .fault f))

/-- R220 (d), R234, R235: while BUSY = 1 every write, a second CMD write among them, and every read but STATUS's
faults. From the command's completion until the host has read STATUS with BUSY = 0, each such access that answers a
next state is recorded as a fault; outside the busy window none is. A STATUS read answers the status word, is never
recorded, and closes the window exactly if it returns BUSY = 0. The field pollDue is the model's form of the window
and hazard its record, the words handed to the host are the model's own data, and that the busy hazard is the fault
named where R220 (a) or (c) applies too is the model's choice (log entries 3, 4 and 15). -/
def Obligations.BusyAccessFaults : Prop :=
  ∀ (s : State) (a w : Word),
    (s.busy = true → hostWrite a w s = .fault .busyHazard ∧
      (a ≠ 0x00000001#32 → hostRead a s = .fault .busyHazard)) ∧
    (s.busy = false → ∀ t, hostWrite a w s = .next t ∨ (a ≠ 0x00000001#32 ∧ hostRead a s = .next t) →
      t.hazard = (s.hazard || s.pollDue)) ∧
    hostRead 0x00000001#32 s = .next
      { s with reads := s.statusWord :: s.reads, pollDue := if s.busy then s.pollDue else false }

/-- R26, R30, R31, R63, R64, R74: while BUSY = 0 a host read of a staged register hands its word to the host, CTRL_IN
its bit 0, and a write stores the word, which the next read hands back; nothing else changes but for the record
noteAccess keeps of an access that breaks R234. The words handed to the host and that record are the model's own data
(log entries 3 and 4). -/
def Obligations.StagedRegistersHold : Prop :=
  ∀ (s : State) (w : Word), s.busy = false →
    (hostRead 0x00000002#32 s = .next { s.noteAccess with reads := s.kIn :: s.reads } ∧
      hostWrite 0x00000002#32 w s = .next { s.noteAccess with kIn := w } ∧
      hostRead 0x00000002#32 { s.noteAccess with kIn := w } = .next { s.noteAccess with kIn := w, reads := w :: s.reads }) ∧
    (hostRead 0x00000003#32 s = .next { s.noteAccess with reads := s.gIn :: s.reads } ∧
      hostWrite 0x00000003#32 w s = .next { s.noteAccess with gIn := w } ∧
      hostRead 0x00000003#32 { s.noteAccess with gIn := w } = .next { s.noteAccess with gIn := w, reads := w :: s.reads }) ∧
    (hostRead 0x00000005#32 s = .next { s.noteAccess with reads := s.inLen :: s.reads } ∧
      hostWrite 0x00000005#32 w s = .next { s.noteAccess with inLen := w } ∧
      hostRead 0x00000005#32 { s.noteAccess with inLen := w } = .next { s.noteAccess with inLen := w, reads := w :: s.reads }) ∧
    (hostRead 0x00000004#32 s = .next { s.noteAccess with reads := (if s.ctrlIn.getLsbD 0 then 1 else 0) :: s.reads } ∧
      ∃ t, hostWrite 0x00000004#32 w s = .next t ∧ t = { s.noteAccess with ctrlIn := t.ctrlIn } ∧
        hostRead 0x00000004#32 t = .next { t with reads := (if w.getLsbD 0 then 1 else 0) :: t.reads }) ∧
    (∀ j, CoreInv s → j < s.params.gMax →
      hostRead (0x00000100#32 + BitVec.ofNat 32 j) s = .next { s.noteAccess with reads := s.genIn.getD j 0 :: s.reads } ∧
      ∃ t, hostWrite (0x00000100#32 + BitVec.ofNat 32 j) w s = .next t ∧ t = { s.noteAccess with genIn := t.genIn } ∧
        hostRead (0x00000100#32 + BitVec.ofNat 32 j) t = .next { t with reads := w :: t.reads } ∧
        ∀ j', j' ≠ j → t.genIn.getD j' 0 = s.genIn.getD j' 0)

/-- R62, R63, R68: while BUSY = 0, writes to STATUS, OUT_LEN, K, G, CTRL, GEN[j] and OUT_MEM[i] have no effect; a host
read of CMD hands over 0, of STATUS and CTRL_IN a word whose reserved bits are 0, of OUT_LEN, K, G, CTRL and GEN[j]
the register as it is, and changes no state of the core; CTRL_IN ignores writes to its reserved bits. The words handed
to the host, the form of the busy window, which that STATUS read closes, and the record noteAccess keeps of an access
that breaks R234 are the model's own data (log entries 3 and 4). -/
def Obligations.ReadOnlyWritesIgnored : Prop :=
  ∀ (s : State) (w : Word), s.params.legal → s.busy = false →
    hostWrite 0x00000001#32 w s = .next s.noteAccess ∧
    hostWrite 0x00000006#32 w s = .next s.noteAccess ∧
    hostWrite 0x00000008#32 w s = .next s.noteAccess ∧
    hostWrite 0x00000009#32 w s = .next s.noteAccess ∧
    hostWrite 0x0000000A#32 w s = .next s.noteAccess ∧
    (∀ j, j < s.params.gMax → hostWrite (0x00000200#32 + BitVec.ofNat 32 j) w s = .next s.noteAccess) ∧
    (∀ i, i < s.params.lMax → hostWrite (0x20000000#32 + BitVec.ofNat 32 i) w s = .next s.noteAccess) ∧
    hostRead 0x00000000#32 s = .next { s.noteAccess with reads := 0 :: s.reads } ∧
    (hostRead 0x00000001#32 s = .next { s with reads := s.statusWord :: s.reads, pollDue := false } ∧
      s.statusWord.getLsbD 2 = false ∧ s.statusWord.getLsbD 3 = false ∧
      ∀ i, 8 ≤ i → s.statusWord.getLsbD i = false) ∧
    (∃ v, hostRead 0x00000004#32 s = .next { s.noteAccess with reads := v :: s.reads } ∧ ∀ i, 1 ≤ i → v.getLsbD i = false) ∧
    (∀ w', w'.getLsbD 0 = w.getLsbD 0 → hostWrite 0x00000004#32 w' s = hostWrite 0x00000004#32 w s) ∧
    hostRead 0x00000006#32 s = .next { s.noteAccess with reads := s.outLen :: s.reads } ∧
    hostRead 0x00000008#32 s = .next { s.noteAccess with reads := s.k :: s.reads } ∧
    hostRead 0x00000009#32 s = .next { s.noteAccess with reads := s.g :: s.reads } ∧
    hostRead 0x0000000A#32 s = .next { s.noteAccess with reads := (if s.ctrl.getLsbD 0 then 1 else 0) :: s.reads } ∧
    (∀ j, j < s.params.gMax →
      hostRead (0x00000200#32 + BitVec.ofNat 32 j) s = .next { s.noteAccess with reads := s.gen.getD j 0 :: s.reads })

/-- R65, R102: while BUSY = 0 a host write to IN_MEM[i] stores bit 0 of the word and ignores the rest; it reads back
as that bit, zero-extended; every other element is as before. The words handed to the host and the record noteAccess
keeps of an access that breaks R234 are the model's own data (log entries 3 and 4). -/
def Obligations.InputBitMasked : Prop :=
  ∀ (s : State) (w : Word) (i : Nat), s.params.legal → s.busy = false → i < s.params.lMax →
    ∃ t, hostWrite (0x10000000#32 + BitVec.ofNat 32 i) w s = .next t ∧
      hostRead (0x10000000#32 + BitVec.ofNat 32 i) t =
        .next { t with reads := (if w.getLsbD 0 then 1 else 0) :: t.reads } ∧
      (∀ a, a ≠ i → Memory.read t.inMem a = Memory.read s.inMem a) ∧
      t = { s.noteAccess with inMem := t.inMem }

/-- R36, R63, R220 (a): while BUSY = 0, a host read of an element that holds a bit returns it, zero-extended; of one
that holds no value it is a model fault, and not a value. The words handed to the host and the record noteAccess keeps
of an access that breaks R234 are the model's own data (log entries 3 and 4). That the fault named for an element with
no value stays its own where the read breaks R234 too is the model's choice (log entry 15). -/
def Obligations.ElementReads : Prop :=
  ∀ (s : State) (i : Nat), s.params.legal → s.busy = false → i < s.params.lMax →
    (Memory.read s.inMem i = none → hostRead (0x10000000#32 + BitVec.ofNat 32 i) s =
      .fault (.hostReadNoValue (0x10000000#32 + BitVec.ofNat 32 i))) ∧
    (Memory.read s.outMem i = none → hostRead (0x20000000#32 + BitVec.ofNat 32 i) s =
      .fault (.hostReadNoValue (0x20000000#32 + BitVec.ofNat 32 i))) ∧
    (∀ x, Memory.read s.inMem i = some x → hostRead (0x10000000#32 + BitVec.ofNat 32 i) s =
      .next { s.noteAccess with reads := (if x = 1 then 1 else 0) :: s.reads }) ∧
    (∀ x, Memory.read s.outMem i = some x → hostRead (0x20000000#32 + BitVec.ofNat 32 i) s =
      .next { s.noteAccess with reads := (if x = 1 then 1 else 0) :: s.reads })

/-- R63, R71, R234: a read changes no state of the core: it only hands its word to the host, a STATUS read that
returns BUSY = 0 closes the busy window, and any other read in the window is recorded as a fault. The words handed to
the host, the form of the window and the record are the model's own fields (log entries 3 and 4). -/
def Obligations.ReadsChangeNoCoreState : Prop :=
  ∀ (s t : State) (a : Word), hostRead a s = .next t →
    eraseHost t = eraseHost s ∧
    t = { s with reads := t.reads, pollDue := t.pollDue, hazard := t.hazard } ∧
    (∃ v, readWord a s = .ok v ∧ t.reads = v :: s.reads) ∧
    t.pollDue = (if a = 0x00000001#32 ∧ s.busy = false then false else s.pollDue) ∧
    t.hazard = (if a = 0x00000001#32 then s.hazard else (s.hazard || s.pollDue))

/-- R95: the STATUS word is `{24'b0, ERR[3:0], 2'b00, BUSY, CONFIGURED}`, and the rule's five examples. -/
def Obligations.StatusWordLayout : Prop :=
  (∀ s : State, s.statusWord.toNat =
    s.err.number.toNat * 16 + (if s.busy then 2 else 0) + (if s.configured then 1 else 0)) ∧
  (∀ s : State, s.err = .none → s.busy = false → s.configured = false → s.statusWord = 0x00000000#32) ∧
  (∀ s : State, s.err = .none → s.busy = false → s.configured = true → s.statusWord = 0x00000001#32) ∧
  (∀ s : State, s.err = .invalidInputLength → s.busy = false → s.configured = true → s.statusWord = 0x00000021#32) ∧
  (∀ s : State, s.err = .invalidConfiguration → s.busy = false → s.configured = false → s.statusWord = 0x00000010#32) ∧
  (∀ s : State, s.err = .none → s.busy = true → s.configured = false → s.statusWord = 0x00000002#32)

/-- R75, R234, R243: what the host can see. STATUS polls between the ENGINE's micro-steps are not observable: with any
interleaving of them the core ends in the state the ENGINE alone reaches, and no hazard is recorded. A run is over
when the host has no turn left and no command is in progress; then every further step leaves it over and its end state
as it is, so that all ends of one run have the same end state. The end state is what the host can read: two states
have the same one exactly if every address reads the same in both. The schedule, the words handed to the host and the
record of hazards are the model's own data (log entries 2, 3 and 4). -/
def Obligations.PollsUnobserved : Prop :=
  (∀ (s t : State), (∀ turn ∈ s.schedule, PollOrEngine s turn) →
    engineRun (s.schedule.countP (· = .engine)) s = .next t →
    ∃ u, Host.Core.run core s.schedule.length s = .next u ∧ eraseHost u = eraseHost t ∧
      u.endState = t.endState ∧ u.hazard = s.hazard) ∧
  (∀ s : State, CoreInv s →
    (s.runOver = true ↔ (∀ op, Turn.host op ∉ s.schedule) ∧ s.busy = false)) ∧
  (∀ s : State, s.runOver = true →
    step s = .next (takeTurn s) ∧ (takeTurn s).runOver = true ∧ (takeTurn s).endState = s.endState) ∧
  (∀ s t u : State, EndsIn s t → EndsIn s u → t.endState = u.endState) ∧
  (∀ s t : State, CoreInv s → CoreInv t → s.params = t.params →
    (s.endState = t.endState ↔ ∀ a, readWord a s = readWord a t))

/-! ### Reset and invariants -/

/-- R48, R230: the reset event. In one step, at any time, every piece of state for which the spec gives a reset value
takes it, and the busy window is closed, so that the HOST's next turn may follow at once. That the parameters and the
HOST agent's schedule, words and recorded hazard stay is the model's choice (log entries 1, 2, 3 and 4). -/
def Obligations.ResetEvent : Prop :=
  ∀ s : State, s.schedule.head? = some (.host .reset) →
    ∃ t, step s = .next t ∧
      t.statusWord = 0 ∧ t.configured = false ∧ t.busy = false ∧ t.err = .none ∧
      t.kIn = 0 ∧ t.gIn = 0 ∧ t.ctrlIn = 0 ∧ (∀ j, t.genIn.getD j 0 = 0) ∧
      t.k = 0 ∧ t.g = 0 ∧ t.ctrl = 0 ∧ (∀ j, t.gen.getD j 0 = 0) ∧
      t.inLen = 0 ∧ t.outLen = 0 ∧ t.phase = .idle ∧
      (∀ i, Memory.read t.inMem i = none) ∧ (∀ i, Memory.read t.outMem i = none) ∧
      t.pollWindow = false ∧ t.hazard = s.hazard ∧
      t.params = s.params ∧ t.schedule = s.schedule.tail ∧ t.reads = s.reads

/-- R6, R28, R30, R43, R48: for every legal choice of the parameters and whatever the reset count, the state after reset
meets the machine's invariants; so does State.reset, whose five parameter numbers are the model's choice (log entry 1).
The clauses on the widths of ENC_STATE, SI and FST rest on the zeros those registers take at reset, the model's choice
(log entry 5). -/
def Obligations.ResetMeetsInvariants : Prop :=
  (∀ (p : Params) (e : Nat), p.legal →
    CoreInv (State.resetWith p e) ∧ TrellisInv (State.resetWith p e)) ∧
  CoreInv State.reset ∧ TrellisInv State.reset

/-- R28, R30, R33 to R39, R43, R66: every step keeps the machine's invariant, from every state that meets it. The
invariant: legal parameters and register file sizes; all four memories in canonical form, their indices and contents
within range; widths; BUSY = 1 exactly when PHASE is not IDLE; reserved bits 0; a configured K and G within bounds; and
in each working phase what its command's checks established. -/
def Obligations.StepKeepsInv : Prop := ∀ s t : State, CoreInv s → step s = .next t → CoreInv t

/-- R161, R162, R163, R185: every step keeps the trellis invariant, from every state that meets both. The invariant, in
the phases after DEC_INIT: a reachable cell at time t costs at most `t*G` and, for t ≥ 1, its entry is valid and a
transition from a reachable predecessor; a finished column is reachable exactly below `2^min(t, K-1)`; traceback holds a
reachable state. -/
def Obligations.StepKeepsTrellisInv : Prop :=
  ∀ s t : State, CoreInv s → TrellisInv s → step s = .next t → TrellisInv t

/-- R185, R220: in a state that meets the invariants a step can only fault for the causes R220 (a) to (d) name. (a): a
host read of an address that selects an element of IN_MEM or OUT_MEM that holds no value. (b): an ENC_STEP whose input
element, or a DEC_ACS of a reachable state whose input group has an element, that holds no value. (c): a host read or
write of an unmapped address. (d): an access that breaks the busy rule R234 while BUSY = 1. Never for an invalid
back-pointer or a phase of another command. Turns and the field pollDue are the model's own data (log entries 2 and
4); which fault is named where the busy rule, while BUSY = 1 or in the rest of its window, and another cause both
apply is the model's choice (log entry 15). -/
def Obligations.FaultCauses : Prop :=
  ∀ (s : State) (f : Fault), CoreInv s → TrellisInv s → step s = .fault f →
    (∃ a, f = .hostReadNoValue a ∧ s.schedule.head? = some (.host (.read a)) ∧ s.busy = false ∧
      ∃ i, (decodeAddr s.params a = some (.inMem i) ∧ Memory.read s.inMem i = none) ∨
        (decodeAddr s.params a = some (.outMem i) ∧ Memory.read s.outMem i = none)) ∨
    (∃ i, f = .engineReadNoValue i ∧ EngineTurn s ∧ i < s.inLen.toNat ∧ Memory.read s.inMem i = none ∧
      ((s.phase = .encStep ∧ i = s.iIdx.toNat) ∨
        (s.phase = .decAcs ∧ Reachable s s.t.toNat s.si ∧ s.t.toNat * s.gNum ≤ i ∧
          i < s.t.toNat * s.gNum + s.gNum))) ∨
    (∃ a, f = .unmappedAccess a ∧ decodeAddr s.params a = none ∧ s.busy = false ∧
      (s.schedule.head? = some (.host (.read a)) ∨ ∃ w, s.schedule.head? = some (.host (.write a w)))) ∨
    (f = .busyHazard ∧ s.busy = true ∧ ¬ HazardFree s)

/-- R34, R35, R72: only a host write, or reset, changes IN_MEM; only ENC_STEP, at `I*G + j`, and DEC_TB, at `T-1`, or
reset, change OUT_MEM; and both ENGINE indices are below the OUT_LEN the command will report. -/
def Obligations.BitMemoryWriters : Prop :=
  ∀ (s t : State) (a : Nat), CoreInv s → step s = .next t →
    (Memory.read t.inMem a ≠ Memory.read s.inMem a →
      s.schedule.head? = some (.host .reset) ∨
      ∃ ad w, s.schedule.head? = some (.host (.write ad w)) ∧ decodeAddr s.params ad = some (.inMem a)) ∧
    (Memory.read t.outMem a ≠ Memory.read s.outMem a →
      s.schedule.head? = some (.host .reset) ∨
      (EngineTurn s ∧ s.phase = .encStep ∧ a / s.gNum = s.iIdx.toNat ∧ a < s.inLen.toNat * s.gNum) ∨
      (EngineTurn s ∧ s.phase = .decTb ∧ a + 1 = s.t.toNat ∧ a < s.nSteps.toNat))
end

