-- ==== Sys2Proof/Laws/Memory.lean ====
section
/-! SUPPORT. The laws of a memory: what each operation leaves at each element, and that each keeps the canonical form. -/

namespace Sys2Proof.Laws

open Sys2Proof.Machine

variable {α : Type}

@[simp] theorem Memory_read_nil (i : Nat) : Memory.read ([] : Memory α) i = none := rfl

theorem Memory_read_cons (j : Nat) (v : α) (m : Memory α) (i : Nat) :
    Memory.read ((j, v) :: m) i = if i = j then some v else Memory.read m i := rfl

@[simp] theorem Memory_read_write_same (m : Memory α) (i : Nat) (v : α) :
    Memory.read (Memory.write m i v) i = some v := by
  induction m with
  | nil => simp [Memory.write, Memory.read]
  | cons p m ih =>
    obtain ⟨j, x⟩ := p
    unfold Memory.write
    split
    · simp [Memory.read]
    · split
      · simp [Memory.read]
      · simp [Memory.read, *]

theorem Memory_read_write_ne (m : Memory α) {i j : Nat} (v : α) (h : j ≠ i) :
    Memory.read (Memory.write m i v) j = Memory.read m j := by
  induction m with
  | nil => simp [Memory.write, Memory.read, h]
  | cons p m ih =>
    obtain ⟨k, x⟩ := p
    unfold Memory.write
    split
    · simp [Memory.read, h]
    · split
      · subst_vars; simp [Memory.read, h]
      · simp [Memory.read, ih]

/-- Everything `Memory.write` does to reads. -/
theorem Memory_read_write (m : Memory α) (i j : Nat) (v : α) :
    Memory.read (Memory.write m i v) j = if j = i then some v else Memory.read m j := by
  split
  · subst_vars; exact Memory_read_write_same m _ v
  · exact Memory_read_write_ne m v ‹_›

/-- A written memory lists the written element and elements it listed before. -/
theorem Memory_mem_write {m : Memory α} {i : Nat} {v : α} {p : Nat × α} (h : p ∈ Memory.write m i v) :
    p = (i, v) ∨ p ∈ m := by
  induction m with
  | nil => simpa [Memory.write] using h
  | cons q m ih =>
    obtain ⟨j, x⟩ := q
    unfold Memory.write at h
    split at h
    · rcases List.mem_cons.1 h with h | h
      · exact .inl h
      · exact .inr h
    · split at h
      · rcases List.mem_cons.1 h with h | h
        · exact .inl h
        · exact .inr (List.mem_cons_of_mem _ h)
      · rcases List.mem_cons.1 h with h | h
        · exact .inr (h ▸ List.mem_cons_self ..)
        · exact (ih h).imp id (List.mem_cons_of_mem _)

theorem Memory_write_wf {m : Memory α} (i : Nat) (v : α) (h : Memory.wf m) : Memory.wf (Memory.write m i v) := by
  induction m with
  | nil => simp [Memory.write]
  | cons p m ih =>
    obtain ⟨j, x⟩ := p
    obtain ⟨hj, hm⟩ := List.pairwise_cons.1 h
    unfold Memory.write
    split
    · refine List.pairwise_cons.2 ⟨fun q hq => ?_, h⟩
      rcases List.mem_cons.1 hq with rfl | hq
      · assumption
      · exact Nat.lt_trans ‹_› (hj q hq)
    · split
      · subst_vars; exact List.pairwise_cons.2 ⟨hj, hm⟩
      · refine List.pairwise_cons.2 ⟨fun q hq => ?_, ih hm⟩
        rcases Memory_mem_write hq with rfl | hq
        · show j < i; omega
        · exact hj q hq

theorem Memory_read_append (m m' : Memory α) (i : Nat) :
    Memory.read (m ++ m') i = (Memory.read m i).or (Memory.read m' i) := by
  induction m with
  | nil => simp
  | cons p m ih =>
    obtain ⟨j, x⟩ := p
    simp only [List.cons_append, Memory_read_cons, ih]
    split <;> simp

theorem Memory_read_map (f : Nat → α) (l : List Nat) (i : Nat) :
    Memory.read (l.map fun j => (j, f j)) i = if i ∈ l then some (f i) else none := by
  induction l with
  | nil => simp
  | cons j l ih =>
    simp only [List.map_cons, Memory_read_cons, ih, List.mem_cons]
    by_cases h : i = j
    · subst h; simp
    · simp [h]

theorem Memory_read_filter (m : Memory α) (n i : Nat) :
    Memory.read (m.filter fun x => n ≤ x.1) i = if n ≤ i then Memory.read m i else none := by
  induction m with
  | nil => simp
  | cons p m ih =>
    obtain ⟨j, x⟩ := p
    by_cases hj : n ≤ j
    · simp only [hj, List.filter_cons, decide_true, if_true, Memory_read_cons, ih]
      by_cases h : i = j
      · subst h; simp [hj]
      · simp [h]
    · have e : ((j, x) :: m).filter (fun x => decide (n ≤ x.1)) = m.filter fun x => decide (n ≤ x.1) := by
        simp [hj]
      rw [e, ih, Memory_read_cons]
      by_cases h : i = j
      · subst h; simp [hj]
      · simp [h]

/-- Everything `Memory.fillBelow` does to reads. -/
theorem Memory_read_fillBelow (m : Memory α) (n : Nat) (f : Nat → α) (i : Nat) :
    Memory.read (Memory.fillBelow m n f) i = if i < n then some (f i) else Memory.read m i := by
  simp only [Memory.fillBelow, Memory_read_append, Memory_read_map, Memory_read_filter, List.mem_range]
  by_cases h : i < n
  · simp [h]
  · simp [h, Nat.le_of_not_lt h]

/-- A filled memory lists the filled elements and elements it listed before. -/
theorem Memory_mem_fillBelow {m : Memory α} {n : Nat} {f : Nat → α} {p : Nat × α}
    (h : p ∈ Memory.fillBelow m n f) : (p.1 < n ∧ p.2 = f p.1) ∨ p ∈ m := by
  rcases List.mem_append.1 h with h | h
  · obtain ⟨i, hi, rfl⟩ := List.mem_map.1 h
    exact .inl ⟨List.mem_range.1 hi, rfl⟩
  · exact .inr (List.mem_of_mem_filter h)

theorem Memory_fillBelow_wf {m : Memory α} (n : Nat) (f : Nat → α) (h : Memory.wf m) :
    Memory.wf (Memory.fillBelow m n f) := by
  refine List.pairwise_append.2 ⟨?_, h.filter _, fun p hp q hq => ?_⟩
  · exact List.Pairwise.map _ (fun _ _ h => h) List.pairwise_lt_range
  · obtain ⟨i, hi, rfl⟩ := List.mem_map.1 hp
    have := List.mem_range.1 hi
    have := of_decide_eq_true (List.mem_filter.1 hq).2
    show i < q.1
    omega

/-- In a canonical memory a listed element reads as its value. -/
theorem Memory_read_of_mem {m : Memory α} (h : Memory.wf m) {i : Nat} {v : α} (hm : (i, v) ∈ m) :
    Memory.read m i = some v := by
  induction m with
  | nil => cases hm
  | cons p m ih =>
    obtain ⟨j, x⟩ := p
    obtain ⟨hj, hm'⟩ := List.pairwise_cons.1 h
    rcases List.mem_cons.1 hm with e | hm
    · cases e; simp [Memory_read_cons]
    · have : j < i := hj _ hm
      simp [Memory_read_cons, Nat.ne_of_gt this, ih hm' hm]

/-- A read that answers a value answers a listed one. -/
theorem Memory_mem_of_read {m : Memory α} {i : Nat} {v : α} (h : Memory.read m i = some v) : (i, v) ∈ m := by
  induction m with
  | nil => cases h
  | cons p m ih =>
    obtain ⟨j, x⟩ := p
    rw [Memory_read_cons] at h
    split at h
    · cases h; subst_vars; exact List.mem_cons_self ..
    · exact List.mem_cons_of_mem _ (ih h)

/-- Equal contents are equal lists: the canonical form has one list per contents. -/
theorem Memory_ext {m m' : Memory α} (h : Memory.wf m) (h' : Memory.wf m')
    (e : ∀ i, Memory.read m i = Memory.read m' i) : m = m' := by
  refine List.Perm.eq_of_pairwise (le := fun x y : Nat × α => x.1 < y.1)
    (fun a b _ _ hab hba => absurd hab (Nat.lt_asymm hba)) h h' ?_
  have nd : ∀ {m : Memory α}, Memory.wf m → m.Nodup := fun h =>
    h.imp fun hlt heq => by subst heq; exact Nat.lt_irrefl _ hlt
  refine (List.perm_ext_iff_of_nodup (nd h) (nd h')).2 fun p => ⟨fun hp => ?_, fun hp => ?_⟩
  · exact Memory_mem_of_read (e p.1 ▸ Memory_read_of_mem h hp)
  · exact Memory_mem_of_read ((e p.1).symm ▸ Memory_read_of_mem h' hp)

end Sys2Proof.Laws
end

