-- ==== Sys2Proof/Laws/Datapath.lean ====
section
/-! SUPPORT. The datapath ENCODE and DECODE share: shifting in, the next state, parity, segment cost, the minimum scan. -/

namespace Sys2Proof.Laws

open Sys2Proof.Machine Sys2Proof.Safety

/-! ### The shift register -/

theorem stateCount_pos (s : State) : 0 < s.stateCount := Nat.two_pow_pos _

theorem shiftIn_eq (st : Nat) (x : Bit) : shiftIn st x = 2 * st + x.toNat := by
  have hx : x.toNat < 2 ^ 1 := x.isLt
  rw [shiftIn, Nat.shiftLeft_eq, Nat.mul_comm, ← Nat.two_pow_add_eq_or_of_lt hx st]

theorem nextState_eq (s : State) (c : Nat) : s.nextState c = c % s.stateCount :=
  Nat.and_two_pow_sub_one_eq_mod c _

theorem nextState_lt (s : State) (c : Nat) : s.nextState c < s.stateCount := by
  rw [nextState_eq]; exact Nat.mod_lt _ (stateCount_pos s)

theorem bit_toNat_le (x : Bit) : x.toNat ≤ 1 := Nat.lt_succ_iff.1 x.isLt

theorem shiftIn_lt {st S : Nat} (x : Bit) (h : st < S) : shiftIn st x < 2 * S := by
  have := bit_toNat_le x
  rw [shiftIn_eq]; omega

/-! ### Parity -/

theorem popcount_succ (n v : Nat) : popcount (n + 1) v = popcount n v + (v.testBit n).toNat := by
  induction n generalizing v with
  | zero => simp [popcount, Nat.testBit_zero]; rcases Nat.mod_two_eq_zero_or_one v with h | h <;> simp [h]
  | succ n ih => rw [popcount, ih (v / 2), popcount, Nat.testBit_succ]; omega

theorem ofNat_add_bool (a : Nat) (b : Bool) :
    BitVec.ofNat 1 (a + b.toNat) = BitVec.ofNat 1 a ^^^ (if b then 1 else 0) := by
  apply BitVec.eq_of_toNat_eq
  rcases Nat.mod_two_eq_zero_or_one a with h | h <;> cases b <;>
    simp [BitVec.toNat_ofNat, Nat.add_mod, h]

theorem tapParity_stable {g : Nat} {n : Nat} (c : Nat) (h : g < 2 ^ n) {m : Nat} (hm : n ≤ m) :
    tapParity g c m = tapParity g c n := by
  induction m, hm using Nat.le_induction with
  | base => rfl
  | succ m hm ih =>
    have : g.testBit m = false :=
      Nat.testBit_lt_two_pow (Nat.lt_of_lt_of_le h (Nat.pow_le_pow_right (by decide) hm))
    simp [tapParity, this, ih]

theorem ofNat_popcount (g c k n : Nat) :
    BitVec.ofNat 1 (popcount n (c &&& g &&& (2 ^ k - 1))) = tapParity g c (min n k) := by
  induction n with
  | zero => simp [popcount, tapParity]
  | succ n ih =>
    rw [popcount_succ, ofNat_add_bool, ih]
    by_cases h : n < k
    · have e1 : min (n + 1) k = n + 1 := by omega
      have e2 : min n k = n := by omega
      rw [e1, tapParity, e2]
      simp [h, Bool.and_comm]
    · have e1 : min (n + 1) k = min n k := by omega
      simp [e1, h]

theorem genNum_lt (s : State) (j : Nat) : s.genNum j < 2 ^ 32 := (s.gen.getD j 0).isLt

/-- R134: the output bit is the XOR of the bits of `combined` at the positions `0..K-1` the generator selects. -/
theorem outBit_eq (s : State) (c j : Nat) : s.outBit c j = tapParity (s.genNum j) c s.kNum := by
  rw [State.outBit, State.kMask, parity, ofNat_popcount]
  rcases Nat.le_total s.kNum 32 with h | h
  · rw [Nat.min_eq_right h]
  · rw [Nat.min_eq_left h, tapParity_stable _ (genNum_lt s j) h]

/-! ### Output groups (R135) -/

/-- Everything `writeGroup` does to reads: `base + j` holds output bit `j`, every other element is as before. -/
theorem writeGroup_read (s : State) (c base n : Nat) (m : Memory Bit) (a : Nat) :
    Memory.read (s.writeGroup c base n m) a =
      if base ≤ a ∧ a < base + n then some (s.outBit c (a - base)) else Memory.read m a := by
  induction n with
  | zero =>
    rw [State.writeGroup, if_neg (by omega)]
  | succ n ih =>
    rw [State.writeGroup, Memory_read_write]
    by_cases h : a = base + n
    · subst h; simp
    · rw [if_neg h, ih]
      by_cases h' : base ≤ a ∧ a < base + n
      · rw [if_pos h', if_pos (by omega)]
      · rw [if_neg h', if_neg (by omega)]

theorem writeGroup_wf {s : State} {c base n : Nat} {m : Memory Bit} (h : Memory.wf m) :
    Memory.wf (s.writeGroup c base n m) := by
  induction n with
  | zero => exact h
  | succ n ih => exact Memory_write_wf _ _ ih

theorem writeGroup_mem {s : State} {c base n : Nat} {m : Memory Bit} {p : Nat × Bit}
    (h : p ∈ s.writeGroup c base n m) : p.1 < base + n ∨ p ∈ m := by
  induction n with
  | zero => exact .inr h
  | succ n ih =>
    rcases Memory_mem_write h with rfl | h
    · exact .inl (Nat.lt_succ_self _)
    · exact (ih h).imp (fun h => Nat.lt_succ_of_lt h) id

/-! ### Segment cost (R156) -/

theorem toNat_xor_eq (e x : Bit) : (e ^^^ x).toNat = if e = x then 0 else 1 := by
  revert e x; decide

/-- If the first `n` elements of the group hold `x`, the segment cost is a Hamming distance. -/
theorem segmentCost_ok (s : State) (c base n : Nat) (x : Nat → Bit)
    (h : ∀ j, j < n → Memory.read s.inMem (base + j) = some (x j)) :
    s.segmentCost c base n = .ok (hamming (fun j => tapParity (s.genNum j) c s.kNum) x n) := by
  induction n with
  | zero => rfl
  | succ n ih =>
    rw [State.segmentCost, ih fun j hj => h j (Nat.lt_succ_of_lt hj)]
    simp only [h n (Nat.lt_succ_self n), hamming, outBit_eq, toNat_xor_eq]

/-- Otherwise it is the fault of an element of the group that holds no value (R66). -/
theorem segmentCost_error {s : State} {c base n : Nat} {f : Fault} (h : s.segmentCost c base n = .error f) :
    ∃ j, j < n ∧ Memory.read s.inMem (base + j) = none ∧ f = .engineReadNoValue (base + j) := by
  induction n with
  | zero => cases h
  | succ n ih =>
    rw [State.segmentCost] at h
    cases e : s.segmentCost c base n with
    | error g =>
      rw [e] at h; cases h
      obtain ⟨j, hj, hr, hf⟩ := ih e
      exact ⟨j, Nat.lt_succ_of_lt hj, hr, hf⟩
    | ok d =>
      rw [e] at h
      cases r : Memory.read s.inMem (base + n) with
      | none => rw [r] at h; cases h; exact ⟨n, Nat.lt_succ_self n, r, rfl⟩
      | some x => rw [r] at h; cases h

/-- One element of the group without a value is enough for the fault (R66, R154). -/
theorem segmentCost_missing {s : State} {c base n j : Nat} (hj : j < n) (h : Memory.read s.inMem (base + j) = none) :
    ∃ f, s.segmentCost c base n = .error f := by
  cases e : s.segmentCost c base n with
  | error f => exact ⟨f, rfl⟩
  | ok d =>
    exfalso
    induction n generalizing d with
    | zero => exact absurd hj (Nat.not_lt_zero j)
    | succ n ih =>
      rw [State.segmentCost] at e
      cases e' : s.segmentCost c base n with
      | error g => rw [e'] at e; cases e
      | ok d' =>
        rcases Nat.lt_succ_iff_lt_or_eq.1 hj with hj | rfl
        · exact ih hj d' e'
        · rw [e', h] at e; cases e

theorem hamming_le (e x : Nat → Bit) (n : Nat) : hamming e x n ≤ n := by
  induction n with
  | zero => exact Nat.le_refl 0
  | succ n ih => rw [hamming]; split <;> omega

/-- A segment cost is at most `G` (R156). -/
theorem segmentCost_le {s : State} {c base n d : Nat} (h : s.segmentCost c base n = .ok d) : d ≤ n := by
  induction n generalizing d with
  | zero => cases h; exact Nat.le_refl 0
  | succ n ih =>
    rw [State.segmentCost] at h
    cases e : s.segmentCost c base n with
    | error g => rw [e] at h; cases h
    | ok d' =>
      rw [e] at h
      cases r : Memory.read s.inMem (base + n) with
      | none => rw [r] at h; cases h
      | some x =>
        rw [r] at h; cases h
        have := ih e
        have := bit_toNat_le (s.outBit c n ^^^ x)
        omega

/-! ### The minimum scan (R181) -/

/-- `argMin f n` is the least index in `0..n` at which `f` takes its minimum over `0..n`. -/
theorem argMin_spec (f : Nat → Nat) (n : Nat) :
    argMin f n ≤ n ∧ (∀ i, i ≤ n → f (argMin f n) ≤ f i) ∧ (∀ i, i < argMin f n → f (argMin f n) < f i) := by
  induction n with
  | zero =>
    refine ⟨Nat.le_refl 0, fun i hi => ?_, fun i hi => absurd hi (Nat.not_lt_zero i)⟩
    obtain rfl := Nat.le_zero.1 hi
    exact Nat.le_refl _
  | succ n ih =>
    obtain ⟨h1, h2, h3⟩ := ih
    rw [argMin, cheaper]
    split
    · refine ⟨Nat.le_refl _, fun i hi => ?_, fun i hi => ?_⟩
      · rcases Nat.lt_or_eq_of_le hi with h | rfl
        · have := h2 i (by omega); omega
        · exact Nat.le_refl _
      · have := h2 i (by omega); omega
    · refine ⟨by omega, fun i hi => ?_, h3⟩
      rcases Nat.lt_or_eq_of_le hi with h | rfl
      · exact h2 i (by omega)
      · omega

end Sys2Proof.Laws
end

