-- ==== Sys2Proof/Laws/State.lean ====
section
/-! SUPPORT. One lemma per field per named update of the state, so that no proof unfolds a record update. -/

namespace Sys2Proof.Laws

open Sys2Proof.Machine

/-! ### `State.endCommand` -/

@[simp] theorem endCommand_params (c : ErrCode) (s : State) : (s.endCommand c).params = s.params := rfl
@[simp] theorem endCommand_configured (c : ErrCode) (s : State) : (s.endCommand c).configured = s.configured := rfl
@[simp] theorem endCommand_busy (c : ErrCode) (s : State) : (s.endCommand c).busy = false := rfl
@[simp] theorem endCommand_err (c : ErrCode) (s : State) : (s.endCommand c).err = c := rfl
@[simp] theorem endCommand_kIn (c : ErrCode) (s : State) : (s.endCommand c).kIn = s.kIn := rfl
@[simp] theorem endCommand_gIn (c : ErrCode) (s : State) : (s.endCommand c).gIn = s.gIn := rfl
@[simp] theorem endCommand_ctrlIn (c : ErrCode) (s : State) : (s.endCommand c).ctrlIn = s.ctrlIn := rfl
@[simp] theorem endCommand_genIn (c : ErrCode) (s : State) : (s.endCommand c).genIn = s.genIn := rfl
@[simp] theorem endCommand_inLen (c : ErrCode) (s : State) : (s.endCommand c).inLen = s.inLen := rfl
@[simp] theorem endCommand_outLen (c : ErrCode) (s : State) : (s.endCommand c).outLen = s.outLen := rfl
@[simp] theorem endCommand_k (c : ErrCode) (s : State) : (s.endCommand c).k = s.k := rfl
@[simp] theorem endCommand_g (c : ErrCode) (s : State) : (s.endCommand c).g = s.g := rfl
@[simp] theorem endCommand_ctrl (c : ErrCode) (s : State) : (s.endCommand c).ctrl = s.ctrl := rfl
@[simp] theorem endCommand_gen (c : ErrCode) (s : State) : (s.endCommand c).gen = s.gen := rfl
@[simp] theorem endCommand_inMem (c : ErrCode) (s : State) : (s.endCommand c).inMem = s.inMem := rfl
@[simp] theorem endCommand_outMem (c : ErrCode) (s : State) : (s.endCommand c).outMem = s.outMem := rfl
@[simp] theorem endCommand_encState (c : ErrCode) (s : State) : (s.endCommand c).encState = s.encState := rfl
@[simp] theorem endCommand_cost (c : ErrCode) (s : State) : (s.endCommand c).cost = s.cost := rfl
@[simp] theorem endCommand_bp (c : ErrCode) (s : State) : (s.endCommand c).bp = s.bp := rfl
@[simp] theorem endCommand_phase (c : ErrCode) (s : State) : (s.endCommand c).phase = .idle := rfl
@[simp] theorem endCommand_opc (c : ErrCode) (s : State) : (s.endCommand c).opc = s.opc := rfl
@[simp] theorem endCommand_iIdx (c : ErrCode) (s : State) : (s.endCommand c).iIdx = s.iIdx := rfl
@[simp] theorem endCommand_nSteps (c : ErrCode) (s : State) : (s.endCommand c).nSteps = s.nSteps := rfl
@[simp] theorem endCommand_t (c : ErrCode) (s : State) : (s.endCommand c).t = s.t := rfl
@[simp] theorem endCommand_si (c : ErrCode) (s : State) : (s.endCommand c).si = s.si := rfl
@[simp] theorem endCommand_b (c : ErrCode) (s : State) : (s.endCommand c).b = s.b := rfl
@[simp] theorem endCommand_fst (c : ErrCode) (s : State) : (s.endCommand c).fst = s.fst := rfl
@[simp] theorem endCommand_freeEpoch (c : ErrCode) (s : State) : (s.endCommand c).freeEpoch = s.freeEpoch := rfl
@[simp] theorem endCommand_pollDue (c : ErrCode) (s : State) : (s.endCommand c).pollDue = s.pollDue := rfl
@[simp] theorem endCommand_hazard (c : ErrCode) (s : State) : (s.endCommand c).hazard = s.hazard := rfl
@[simp] theorem endCommand_schedule (c : ErrCode) (s : State) : (s.endCommand c).schedule = s.schedule := rfl
@[simp] theorem endCommand_reads (c : ErrCode) (s : State) : (s.endCommand c).reads = s.reads := rfl

/-! ### `State.acceptCommand` -/

@[simp] theorem acceptCommand_params (w : Word) (s : State) : (s.acceptCommand w).params = s.params := rfl
@[simp] theorem acceptCommand_configured (w : Word) (s : State) : (s.acceptCommand w).configured = s.configured := rfl
@[simp] theorem acceptCommand_busy (w : Word) (s : State) : (s.acceptCommand w).busy = true := rfl
@[simp] theorem acceptCommand_err (w : Word) (s : State) : (s.acceptCommand w).err = s.err := rfl
@[simp] theorem acceptCommand_kIn (w : Word) (s : State) : (s.acceptCommand w).kIn = s.kIn := rfl
@[simp] theorem acceptCommand_gIn (w : Word) (s : State) : (s.acceptCommand w).gIn = s.gIn := rfl
@[simp] theorem acceptCommand_ctrlIn (w : Word) (s : State) : (s.acceptCommand w).ctrlIn = s.ctrlIn := rfl
@[simp] theorem acceptCommand_genIn (w : Word) (s : State) : (s.acceptCommand w).genIn = s.genIn := rfl
@[simp] theorem acceptCommand_inLen (w : Word) (s : State) : (s.acceptCommand w).inLen = s.inLen := rfl
@[simp] theorem acceptCommand_outLen (w : Word) (s : State) : (s.acceptCommand w).outLen = s.outLen := rfl
@[simp] theorem acceptCommand_k (w : Word) (s : State) : (s.acceptCommand w).k = s.k := rfl
@[simp] theorem acceptCommand_g (w : Word) (s : State) : (s.acceptCommand w).g = s.g := rfl
@[simp] theorem acceptCommand_ctrl (w : Word) (s : State) : (s.acceptCommand w).ctrl = s.ctrl := rfl
@[simp] theorem acceptCommand_gen (w : Word) (s : State) : (s.acceptCommand w).gen = s.gen := rfl
@[simp] theorem acceptCommand_inMem (w : Word) (s : State) : (s.acceptCommand w).inMem = s.inMem := rfl
@[simp] theorem acceptCommand_outMem (w : Word) (s : State) : (s.acceptCommand w).outMem = s.outMem := rfl
@[simp] theorem acceptCommand_encState (w : Word) (s : State) : (s.acceptCommand w).encState = s.encState := rfl
@[simp] theorem acceptCommand_cost (w : Word) (s : State) : (s.acceptCommand w).cost = s.cost := rfl
@[simp] theorem acceptCommand_bp (w : Word) (s : State) : (s.acceptCommand w).bp = s.bp := rfl
@[simp] theorem acceptCommand_phase (w : Word) (s : State) : (s.acceptCommand w).phase = .check := rfl
@[simp] theorem acceptCommand_opc (w : Word) (s : State) : (s.acceptCommand w).opc = w := rfl
@[simp] theorem acceptCommand_iIdx (w : Word) (s : State) : (s.acceptCommand w).iIdx = s.iIdx := rfl
@[simp] theorem acceptCommand_nSteps (w : Word) (s : State) : (s.acceptCommand w).nSteps = s.nSteps := rfl
@[simp] theorem acceptCommand_t (w : Word) (s : State) : (s.acceptCommand w).t = s.t := rfl
@[simp] theorem acceptCommand_si (w : Word) (s : State) : (s.acceptCommand w).si = s.si := rfl
@[simp] theorem acceptCommand_b (w : Word) (s : State) : (s.acceptCommand w).b = s.b := rfl
@[simp] theorem acceptCommand_fst (w : Word) (s : State) : (s.acceptCommand w).fst = s.fst := rfl
@[simp] theorem acceptCommand_freeEpoch (w : Word) (s : State) : (s.acceptCommand w).freeEpoch = s.freeEpoch := rfl
@[simp] theorem acceptCommand_pollDue (w : Word) (s : State) : (s.acceptCommand w).pollDue = true := rfl
@[simp] theorem acceptCommand_hazard (w : Word) (s : State) : (s.acceptCommand w).hazard = s.hazard := rfl
@[simp] theorem acceptCommand_schedule (w : Word) (s : State) : (s.acceptCommand w).schedule = s.schedule := rfl
@[simp] theorem acceptCommand_reads (w : Word) (s : State) : (s.acceptCommand w).reads = s.reads := rfl

/-! ### `State.commitConfig` -/

@[simp] theorem commitConfig_params (s : State) : (s.commitConfig).params = s.params := rfl
@[simp] theorem commitConfig_configured (s : State) : (s.commitConfig).configured = true := rfl
@[simp] theorem commitConfig_busy (s : State) : (s.commitConfig).busy = s.busy := rfl
@[simp] theorem commitConfig_err (s : State) : (s.commitConfig).err = s.err := rfl
@[simp] theorem commitConfig_kIn (s : State) : (s.commitConfig).kIn = s.kIn := rfl
@[simp] theorem commitConfig_gIn (s : State) : (s.commitConfig).gIn = s.gIn := rfl
@[simp] theorem commitConfig_ctrlIn (s : State) : (s.commitConfig).ctrlIn = s.ctrlIn := rfl
@[simp] theorem commitConfig_genIn (s : State) : (s.commitConfig).genIn = s.genIn := rfl
@[simp] theorem commitConfig_inLen (s : State) : (s.commitConfig).inLen = s.inLen := rfl
@[simp] theorem commitConfig_outLen (s : State) : (s.commitConfig).outLen = s.outLen := rfl
@[simp] theorem commitConfig_k (s : State) : (s.commitConfig).k = BitVec.ofInt 32 s.kinSigned := rfl
@[simp] theorem commitConfig_g (s : State) : (s.commitConfig).g = s.gIn := rfl
@[simp] theorem commitConfig_ctrl (s : State) : (s.commitConfig).ctrl = bit0Word s.ctrlIn := rfl
@[simp] theorem commitConfig_gen (s : State) : (s.commitConfig).gen = s.genIn := rfl
@[simp] theorem commitConfig_inMem (s : State) : (s.commitConfig).inMem = s.inMem := rfl
@[simp] theorem commitConfig_outMem (s : State) : (s.commitConfig).outMem = s.outMem := rfl
@[simp] theorem commitConfig_encState (s : State) : (s.commitConfig).encState = s.encState := rfl
@[simp] theorem commitConfig_cost (s : State) : (s.commitConfig).cost = s.cost := rfl
@[simp] theorem commitConfig_bp (s : State) : (s.commitConfig).bp = s.bp := rfl
@[simp] theorem commitConfig_phase (s : State) : (s.commitConfig).phase = s.phase := rfl
@[simp] theorem commitConfig_opc (s : State) : (s.commitConfig).opc = s.opc := rfl
@[simp] theorem commitConfig_iIdx (s : State) : (s.commitConfig).iIdx = s.iIdx := rfl
@[simp] theorem commitConfig_nSteps (s : State) : (s.commitConfig).nSteps = s.nSteps := rfl
@[simp] theorem commitConfig_t (s : State) : (s.commitConfig).t = s.t := rfl
@[simp] theorem commitConfig_si (s : State) : (s.commitConfig).si = s.si := rfl
@[simp] theorem commitConfig_b (s : State) : (s.commitConfig).b = s.b := rfl
@[simp] theorem commitConfig_fst (s : State) : (s.commitConfig).fst = s.fst := rfl
@[simp] theorem commitConfig_freeEpoch (s : State) : (s.commitConfig).freeEpoch = s.freeEpoch := rfl
@[simp] theorem commitConfig_pollDue (s : State) : (s.commitConfig).pollDue = s.pollDue := rfl
@[simp] theorem commitConfig_hazard (s : State) : (s.commitConfig).hazard = s.hazard := rfl
@[simp] theorem commitConfig_schedule (s : State) : (s.commitConfig).schedule = s.schedule := rfl
@[simp] theorem commitConfig_reads (s : State) : (s.commitConfig).reads = s.reads := rfl

/-! ### `State.startEncode` -/

@[simp] theorem startEncode_params (s : State) : (s.startEncode).params = s.params := rfl
@[simp] theorem startEncode_configured (s : State) : (s.startEncode).configured = s.configured := rfl
@[simp] theorem startEncode_busy (s : State) : (s.startEncode).busy = s.busy := rfl
@[simp] theorem startEncode_err (s : State) : (s.startEncode).err = s.err := rfl
@[simp] theorem startEncode_kIn (s : State) : (s.startEncode).kIn = s.kIn := rfl
@[simp] theorem startEncode_gIn (s : State) : (s.startEncode).gIn = s.gIn := rfl
@[simp] theorem startEncode_ctrlIn (s : State) : (s.startEncode).ctrlIn = s.ctrlIn := rfl
@[simp] theorem startEncode_genIn (s : State) : (s.startEncode).genIn = s.genIn := rfl
@[simp] theorem startEncode_inLen (s : State) : (s.startEncode).inLen = s.inLen := rfl
@[simp] theorem startEncode_outLen (s : State) : (s.startEncode).outLen = s.outLen := rfl
@[simp] theorem startEncode_k (s : State) : (s.startEncode).k = s.k := rfl
@[simp] theorem startEncode_g (s : State) : (s.startEncode).g = s.g := rfl
@[simp] theorem startEncode_ctrl (s : State) : (s.startEncode).ctrl = s.ctrl := rfl
@[simp] theorem startEncode_gen (s : State) : (s.startEncode).gen = s.gen := rfl
@[simp] theorem startEncode_inMem (s : State) : (s.startEncode).inMem = s.inMem := rfl
@[simp] theorem startEncode_outMem (s : State) : (s.startEncode).outMem = s.outMem := rfl
@[simp] theorem startEncode_encState (s : State) : (s.startEncode).encState = 0 := rfl
@[simp] theorem startEncode_cost (s : State) : (s.startEncode).cost = s.cost := rfl
@[simp] theorem startEncode_bp (s : State) : (s.startEncode).bp = s.bp := rfl
@[simp] theorem startEncode_phase (s : State) : (s.startEncode).phase = .encStep := rfl
@[simp] theorem startEncode_opc (s : State) : (s.startEncode).opc = s.opc := rfl
@[simp] theorem startEncode_iIdx (s : State) : (s.startEncode).iIdx = 0 := rfl
@[simp] theorem startEncode_nSteps (s : State) : (s.startEncode).nSteps = s.nSteps := rfl
@[simp] theorem startEncode_t (s : State) : (s.startEncode).t = s.t := rfl
@[simp] theorem startEncode_si (s : State) : (s.startEncode).si = s.si := rfl
@[simp] theorem startEncode_b (s : State) : (s.startEncode).b = s.b := rfl
@[simp] theorem startEncode_fst (s : State) : (s.startEncode).fst = s.fst := rfl
@[simp] theorem startEncode_freeEpoch (s : State) : (s.startEncode).freeEpoch = s.freeEpoch := rfl
@[simp] theorem startEncode_pollDue (s : State) : (s.startEncode).pollDue = s.pollDue := rfl
@[simp] theorem startEncode_hazard (s : State) : (s.startEncode).hazard = s.hazard := rfl
@[simp] theorem startEncode_schedule (s : State) : (s.startEncode).schedule = s.schedule := rfl
@[simp] theorem startEncode_reads (s : State) : (s.startEncode).reads = s.reads := rfl

/-! ### `State.encodeBit` -/

@[simp] theorem encodeBit_params (x : Bit) (s : State) : (s.encodeBit x).params = s.params := rfl
@[simp] theorem encodeBit_configured (x : Bit) (s : State) : (s.encodeBit x).configured = s.configured := rfl
@[simp] theorem encodeBit_busy (x : Bit) (s : State) : (s.encodeBit x).busy = s.busy := rfl
@[simp] theorem encodeBit_err (x : Bit) (s : State) : (s.encodeBit x).err = s.err := rfl
@[simp] theorem encodeBit_kIn (x : Bit) (s : State) : (s.encodeBit x).kIn = s.kIn := rfl
@[simp] theorem encodeBit_gIn (x : Bit) (s : State) : (s.encodeBit x).gIn = s.gIn := rfl
@[simp] theorem encodeBit_ctrlIn (x : Bit) (s : State) : (s.encodeBit x).ctrlIn = s.ctrlIn := rfl
@[simp] theorem encodeBit_genIn (x : Bit) (s : State) : (s.encodeBit x).genIn = s.genIn := rfl
@[simp] theorem encodeBit_inLen (x : Bit) (s : State) : (s.encodeBit x).inLen = s.inLen := rfl
@[simp] theorem encodeBit_outLen (x : Bit) (s : State) : (s.encodeBit x).outLen = s.outLen := rfl
@[simp] theorem encodeBit_k (x : Bit) (s : State) : (s.encodeBit x).k = s.k := rfl
@[simp] theorem encodeBit_g (x : Bit) (s : State) : (s.encodeBit x).g = s.g := rfl
@[simp] theorem encodeBit_ctrl (x : Bit) (s : State) : (s.encodeBit x).ctrl = s.ctrl := rfl
@[simp] theorem encodeBit_gen (x : Bit) (s : State) : (s.encodeBit x).gen = s.gen := rfl
@[simp] theorem encodeBit_inMem (x : Bit) (s : State) : (s.encodeBit x).inMem = s.inMem := rfl
@[simp] theorem encodeBit_outMem (x : Bit) (s : State) : (s.encodeBit x).outMem = s.writeGroup (shiftIn s.encState x) (s.iIdx.toNat * s.gNum) s.gNum s.outMem := rfl
@[simp] theorem encodeBit_encState (x : Bit) (s : State) : (s.encodeBit x).encState = s.nextState (shiftIn s.encState x) := rfl
@[simp] theorem encodeBit_cost (x : Bit) (s : State) : (s.encodeBit x).cost = s.cost := rfl
@[simp] theorem encodeBit_bp (x : Bit) (s : State) : (s.encodeBit x).bp = s.bp := rfl
@[simp] theorem encodeBit_phase (x : Bit) (s : State) : (s.encodeBit x).phase = s.phase := rfl
@[simp] theorem encodeBit_opc (x : Bit) (s : State) : (s.encodeBit x).opc = s.opc := rfl
@[simp] theorem encodeBit_iIdx (x : Bit) (s : State) : (s.encodeBit x).iIdx = s.iIdx + 1 := rfl
@[simp] theorem encodeBit_nSteps (x : Bit) (s : State) : (s.encodeBit x).nSteps = s.nSteps := rfl
@[simp] theorem encodeBit_t (x : Bit) (s : State) : (s.encodeBit x).t = s.t := rfl
@[simp] theorem encodeBit_si (x : Bit) (s : State) : (s.encodeBit x).si = s.si := rfl
@[simp] theorem encodeBit_b (x : Bit) (s : State) : (s.encodeBit x).b = s.b := rfl
@[simp] theorem encodeBit_fst (x : Bit) (s : State) : (s.encodeBit x).fst = s.fst := rfl
@[simp] theorem encodeBit_freeEpoch (x : Bit) (s : State) : (s.encodeBit x).freeEpoch = s.freeEpoch := rfl
@[simp] theorem encodeBit_pollDue (x : Bit) (s : State) : (s.encodeBit x).pollDue = s.pollDue := rfl
@[simp] theorem encodeBit_hazard (x : Bit) (s : State) : (s.encodeBit x).hazard = s.hazard := rfl
@[simp] theorem encodeBit_schedule (x : Bit) (s : State) : (s.encodeBit x).schedule = s.schedule := rfl
@[simp] theorem encodeBit_reads (x : Bit) (s : State) : (s.encodeBit x).reads = s.reads := rfl

/-! ### `State.finishEncode` -/

@[simp] theorem finishEncode_params (s : State) : (s.finishEncode).params = s.params := rfl
@[simp] theorem finishEncode_configured (s : State) : (s.finishEncode).configured = s.configured := rfl
@[simp] theorem finishEncode_busy (s : State) : (s.finishEncode).busy = false := rfl
@[simp] theorem finishEncode_err (s : State) : (s.finishEncode).err = .none := rfl
@[simp] theorem finishEncode_kIn (s : State) : (s.finishEncode).kIn = s.kIn := rfl
@[simp] theorem finishEncode_gIn (s : State) : (s.finishEncode).gIn = s.gIn := rfl
@[simp] theorem finishEncode_ctrlIn (s : State) : (s.finishEncode).ctrlIn = s.ctrlIn := rfl
@[simp] theorem finishEncode_genIn (s : State) : (s.finishEncode).genIn = s.genIn := rfl
@[simp] theorem finishEncode_inLen (s : State) : (s.finishEncode).inLen = s.inLen := rfl
@[simp] theorem finishEncode_outLen (s : State) : (s.finishEncode).outLen = BitVec.ofNat 32 (s.inLen.toNat * s.gNum) := rfl
@[simp] theorem finishEncode_k (s : State) : (s.finishEncode).k = s.k := rfl
@[simp] theorem finishEncode_g (s : State) : (s.finishEncode).g = s.g := rfl
@[simp] theorem finishEncode_ctrl (s : State) : (s.finishEncode).ctrl = s.ctrl := rfl
@[simp] theorem finishEncode_gen (s : State) : (s.finishEncode).gen = s.gen := rfl
@[simp] theorem finishEncode_inMem (s : State) : (s.finishEncode).inMem = s.inMem := rfl
@[simp] theorem finishEncode_outMem (s : State) : (s.finishEncode).outMem = s.outMem := rfl
@[simp] theorem finishEncode_encState (s : State) : (s.finishEncode).encState = s.encState := rfl
@[simp] theorem finishEncode_cost (s : State) : (s.finishEncode).cost = s.cost := rfl
@[simp] theorem finishEncode_bp (s : State) : (s.finishEncode).bp = s.bp := rfl
@[simp] theorem finishEncode_phase (s : State) : (s.finishEncode).phase = .idle := rfl
@[simp] theorem finishEncode_opc (s : State) : (s.finishEncode).opc = s.opc := rfl
@[simp] theorem finishEncode_iIdx (s : State) : (s.finishEncode).iIdx = s.iIdx := rfl
@[simp] theorem finishEncode_nSteps (s : State) : (s.finishEncode).nSteps = s.nSteps := rfl
@[simp] theorem finishEncode_t (s : State) : (s.finishEncode).t = s.t := rfl
@[simp] theorem finishEncode_si (s : State) : (s.finishEncode).si = s.si := rfl
@[simp] theorem finishEncode_b (s : State) : (s.finishEncode).b = s.b := rfl
@[simp] theorem finishEncode_fst (s : State) : (s.finishEncode).fst = s.fst := rfl
@[simp] theorem finishEncode_freeEpoch (s : State) : (s.finishEncode).freeEpoch = s.freeEpoch := rfl
@[simp] theorem finishEncode_pollDue (s : State) : (s.finishEncode).pollDue = s.pollDue := rfl
@[simp] theorem finishEncode_hazard (s : State) : (s.finishEncode).hazard = s.hazard := rfl
@[simp] theorem finishEncode_schedule (s : State) : (s.finishEncode).schedule = s.schedule := rfl
@[simp] theorem finishEncode_reads (s : State) : (s.finishEncode).reads = s.reads := rfl

/-! ### `State.startDecode` -/

@[simp] theorem startDecode_params (s : State) : (s.startDecode).params = s.params := rfl
@[simp] theorem startDecode_configured (s : State) : (s.startDecode).configured = s.configured := rfl
@[simp] theorem startDecode_busy (s : State) : (s.startDecode).busy = s.busy := rfl
@[simp] theorem startDecode_err (s : State) : (s.startDecode).err = s.err := rfl
@[simp] theorem startDecode_kIn (s : State) : (s.startDecode).kIn = s.kIn := rfl
@[simp] theorem startDecode_gIn (s : State) : (s.startDecode).gIn = s.gIn := rfl
@[simp] theorem startDecode_ctrlIn (s : State) : (s.startDecode).ctrlIn = s.ctrlIn := rfl
@[simp] theorem startDecode_genIn (s : State) : (s.startDecode).genIn = s.genIn := rfl
@[simp] theorem startDecode_inLen (s : State) : (s.startDecode).inLen = s.inLen := rfl
@[simp] theorem startDecode_outLen (s : State) : (s.startDecode).outLen = s.outLen := rfl
@[simp] theorem startDecode_k (s : State) : (s.startDecode).k = s.k := rfl
@[simp] theorem startDecode_g (s : State) : (s.startDecode).g = s.g := rfl
@[simp] theorem startDecode_ctrl (s : State) : (s.startDecode).ctrl = s.ctrl := rfl
@[simp] theorem startDecode_gen (s : State) : (s.startDecode).gen = s.gen := rfl
@[simp] theorem startDecode_inMem (s : State) : (s.startDecode).inMem = s.inMem := rfl
@[simp] theorem startDecode_outMem (s : State) : (s.startDecode).outMem = s.outMem := rfl
@[simp] theorem startDecode_encState (s : State) : (s.startDecode).encState = s.encState := rfl
@[simp] theorem startDecode_cost (s : State) : (s.startDecode).cost = s.cost := rfl
@[simp] theorem startDecode_bp (s : State) : (s.startDecode).bp = s.bp := rfl
@[simp] theorem startDecode_phase (s : State) : (s.startDecode).phase = .decInit := rfl
@[simp] theorem startDecode_opc (s : State) : (s.startDecode).opc = s.opc := rfl
@[simp] theorem startDecode_iIdx (s : State) : (s.startDecode).iIdx = s.iIdx := rfl
@[simp] theorem startDecode_nSteps (s : State) : (s.startDecode).nSteps = BitVec.ofNat 32 (s.inLen.toNat / s.gNum) := rfl
@[simp] theorem startDecode_t (s : State) : (s.startDecode).t = s.t := rfl
@[simp] theorem startDecode_si (s : State) : (s.startDecode).si = s.si := rfl
@[simp] theorem startDecode_b (s : State) : (s.startDecode).b = s.b := rfl
@[simp] theorem startDecode_fst (s : State) : (s.startDecode).fst = s.fst := rfl
@[simp] theorem startDecode_freeEpoch (s : State) : (s.startDecode).freeEpoch = s.freeEpoch := rfl
@[simp] theorem startDecode_pollDue (s : State) : (s.startDecode).pollDue = s.pollDue := rfl
@[simp] theorem startDecode_hazard (s : State) : (s.startDecode).hazard = s.hazard := rfl
@[simp] theorem startDecode_schedule (s : State) : (s.startDecode).schedule = s.schedule := rfl
@[simp] theorem startDecode_reads (s : State) : (s.startDecode).reads = s.reads := rfl

/-! ### `State.initTrellis` -/

@[simp] theorem initTrellis_params (s : State) : (s.initTrellis).params = s.params := rfl
@[simp] theorem initTrellis_configured (s : State) : (s.initTrellis).configured = s.configured := rfl
@[simp] theorem initTrellis_busy (s : State) : (s.initTrellis).busy = s.busy := rfl
@[simp] theorem initTrellis_err (s : State) : (s.initTrellis).err = s.err := rfl
@[simp] theorem initTrellis_kIn (s : State) : (s.initTrellis).kIn = s.kIn := rfl
@[simp] theorem initTrellis_gIn (s : State) : (s.initTrellis).gIn = s.gIn := rfl
@[simp] theorem initTrellis_ctrlIn (s : State) : (s.initTrellis).ctrlIn = s.ctrlIn := rfl
@[simp] theorem initTrellis_genIn (s : State) : (s.initTrellis).genIn = s.genIn := rfl
@[simp] theorem initTrellis_inLen (s : State) : (s.initTrellis).inLen = s.inLen := rfl
@[simp] theorem initTrellis_outLen (s : State) : (s.initTrellis).outLen = s.outLen := rfl
@[simp] theorem initTrellis_k (s : State) : (s.initTrellis).k = s.k := rfl
@[simp] theorem initTrellis_g (s : State) : (s.initTrellis).g = s.g := rfl
@[simp] theorem initTrellis_ctrl (s : State) : (s.initTrellis).ctrl = s.ctrl := rfl
@[simp] theorem initTrellis_gen (s : State) : (s.initTrellis).gen = s.gen := rfl
@[simp] theorem initTrellis_inMem (s : State) : (s.initTrellis).inMem = s.inMem := rfl
@[simp] theorem initTrellis_outMem (s : State) : (s.initTrellis).outMem = s.outMem := rfl
@[simp] theorem initTrellis_encState (s : State) : (s.initTrellis).encState = s.encState := rfl
@[simp] theorem initTrellis_cost (s : State) : (s.initTrellis).cost = Memory.write (Memory.fillBelow s.cost s.trellisSize fun _ => s.inf) (s.cellIndex 0 0) 0 := rfl
@[simp] theorem initTrellis_bp (s : State) : (s.initTrellis).bp = Memory.fillBelow s.bp s.trellisSize fun i => { s.bpCell i with valid := false } := rfl
@[simp] theorem initTrellis_phase (s : State) : (s.initTrellis).phase = s.phase := rfl
@[simp] theorem initTrellis_opc (s : State) : (s.initTrellis).opc = s.opc := rfl
@[simp] theorem initTrellis_iIdx (s : State) : (s.initTrellis).iIdx = s.iIdx := rfl
@[simp] theorem initTrellis_nSteps (s : State) : (s.initTrellis).nSteps = s.nSteps := rfl
@[simp] theorem initTrellis_t (s : State) : (s.initTrellis).t = s.t := rfl
@[simp] theorem initTrellis_si (s : State) : (s.initTrellis).si = s.si := rfl
@[simp] theorem initTrellis_b (s : State) : (s.initTrellis).b = s.b := rfl
@[simp] theorem initTrellis_fst (s : State) : (s.initTrellis).fst = s.fst := rfl
@[simp] theorem initTrellis_freeEpoch (s : State) : (s.initTrellis).freeEpoch = s.freeEpoch := rfl
@[simp] theorem initTrellis_pollDue (s : State) : (s.initTrellis).pollDue = s.pollDue := rfl
@[simp] theorem initTrellis_hazard (s : State) : (s.initTrellis).hazard = s.hazard := rfl
@[simp] theorem initTrellis_schedule (s : State) : (s.initTrellis).schedule = s.schedule := rfl
@[simp] theorem initTrellis_reads (s : State) : (s.initTrellis).reads = s.reads := rfl

/-! ### `State.startForward` -/

@[simp] theorem startForward_params (s : State) : (s.startForward).params = s.params := rfl
@[simp] theorem startForward_configured (s : State) : (s.startForward).configured = s.configured := rfl
@[simp] theorem startForward_busy (s : State) : (s.startForward).busy = s.busy := rfl
@[simp] theorem startForward_err (s : State) : (s.startForward).err = s.err := rfl
@[simp] theorem startForward_kIn (s : State) : (s.startForward).kIn = s.kIn := rfl
@[simp] theorem startForward_gIn (s : State) : (s.startForward).gIn = s.gIn := rfl
@[simp] theorem startForward_ctrlIn (s : State) : (s.startForward).ctrlIn = s.ctrlIn := rfl
@[simp] theorem startForward_genIn (s : State) : (s.startForward).genIn = s.genIn := rfl
@[simp] theorem startForward_inLen (s : State) : (s.startForward).inLen = s.inLen := rfl
@[simp] theorem startForward_outLen (s : State) : (s.startForward).outLen = s.outLen := rfl
@[simp] theorem startForward_k (s : State) : (s.startForward).k = s.k := rfl
@[simp] theorem startForward_g (s : State) : (s.startForward).g = s.g := rfl
@[simp] theorem startForward_ctrl (s : State) : (s.startForward).ctrl = s.ctrl := rfl
@[simp] theorem startForward_gen (s : State) : (s.startForward).gen = s.gen := rfl
@[simp] theorem startForward_inMem (s : State) : (s.startForward).inMem = s.inMem := rfl
@[simp] theorem startForward_outMem (s : State) : (s.startForward).outMem = s.outMem := rfl
@[simp] theorem startForward_encState (s : State) : (s.startForward).encState = s.encState := rfl
@[simp] theorem startForward_cost (s : State) : (s.startForward).cost = s.cost := rfl
@[simp] theorem startForward_bp (s : State) : (s.startForward).bp = s.bp := rfl
@[simp] theorem startForward_phase (s : State) : (s.startForward).phase = .decAcs := rfl
@[simp] theorem startForward_opc (s : State) : (s.startForward).opc = s.opc := rfl
@[simp] theorem startForward_iIdx (s : State) : (s.startForward).iIdx = s.iIdx := rfl
@[simp] theorem startForward_nSteps (s : State) : (s.startForward).nSteps = s.nSteps := rfl
@[simp] theorem startForward_t (s : State) : (s.startForward).t = 0 := rfl
@[simp] theorem startForward_si (s : State) : (s.startForward).si = 0 := rfl
@[simp] theorem startForward_b (s : State) : (s.startForward).b = 0 := rfl
@[simp] theorem startForward_fst (s : State) : (s.startForward).fst = s.fst := rfl
@[simp] theorem startForward_freeEpoch (s : State) : (s.startForward).freeEpoch = s.freeEpoch := rfl
@[simp] theorem startForward_pollDue (s : State) : (s.startForward).pollDue = s.pollDue := rfl
@[simp] theorem startForward_hazard (s : State) : (s.startForward).hazard = s.hazard := rfl
@[simp] theorem startForward_schedule (s : State) : (s.startForward).schedule = s.schedule := rfl
@[simp] theorem startForward_reads (s : State) : (s.startForward).reads = s.reads := rfl

/-! ### `State.select` -/

@[simp] theorem select_params (ns c : Nat) (s : State) : (s.select ns c).params = s.params := by unfold State.select; split <;> rfl
@[simp] theorem select_configured (ns c : Nat) (s : State) : (s.select ns c).configured = s.configured := by unfold State.select; split <;> rfl
@[simp] theorem select_busy (ns c : Nat) (s : State) : (s.select ns c).busy = s.busy := by unfold State.select; split <;> rfl
@[simp] theorem select_err (ns c : Nat) (s : State) : (s.select ns c).err = s.err := by unfold State.select; split <;> rfl
@[simp] theorem select_kIn (ns c : Nat) (s : State) : (s.select ns c).kIn = s.kIn := by unfold State.select; split <;> rfl
@[simp] theorem select_gIn (ns c : Nat) (s : State) : (s.select ns c).gIn = s.gIn := by unfold State.select; split <;> rfl
@[simp] theorem select_ctrlIn (ns c : Nat) (s : State) : (s.select ns c).ctrlIn = s.ctrlIn := by unfold State.select; split <;> rfl
@[simp] theorem select_genIn (ns c : Nat) (s : State) : (s.select ns c).genIn = s.genIn := by unfold State.select; split <;> rfl
@[simp] theorem select_inLen (ns c : Nat) (s : State) : (s.select ns c).inLen = s.inLen := by unfold State.select; split <;> rfl
@[simp] theorem select_outLen (ns c : Nat) (s : State) : (s.select ns c).outLen = s.outLen := by unfold State.select; split <;> rfl
@[simp] theorem select_k (ns c : Nat) (s : State) : (s.select ns c).k = s.k := by unfold State.select; split <;> rfl
@[simp] theorem select_g (ns c : Nat) (s : State) : (s.select ns c).g = s.g := by unfold State.select; split <;> rfl
@[simp] theorem select_ctrl (ns c : Nat) (s : State) : (s.select ns c).ctrl = s.ctrl := by unfold State.select; split <;> rfl
@[simp] theorem select_gen (ns c : Nat) (s : State) : (s.select ns c).gen = s.gen := by unfold State.select; split <;> rfl
@[simp] theorem select_inMem (ns c : Nat) (s : State) : (s.select ns c).inMem = s.inMem := by unfold State.select; split <;> rfl
@[simp] theorem select_outMem (ns c : Nat) (s : State) : (s.select ns c).outMem = s.outMem := by unfold State.select; split <;> rfl
@[simp] theorem select_encState (ns c : Nat) (s : State) : (s.select ns c).encState = s.encState := by unfold State.select; split <;> rfl
@[simp] theorem select_phase (ns c : Nat) (s : State) : (s.select ns c).phase = s.phase := by unfold State.select; split <;> rfl
@[simp] theorem select_opc (ns c : Nat) (s : State) : (s.select ns c).opc = s.opc := by unfold State.select; split <;> rfl
@[simp] theorem select_iIdx (ns c : Nat) (s : State) : (s.select ns c).iIdx = s.iIdx := by unfold State.select; split <;> rfl
@[simp] theorem select_nSteps (ns c : Nat) (s : State) : (s.select ns c).nSteps = s.nSteps := by unfold State.select; split <;> rfl
@[simp] theorem select_t (ns c : Nat) (s : State) : (s.select ns c).t = s.t := by unfold State.select; split <;> rfl
@[simp] theorem select_si (ns c : Nat) (s : State) : (s.select ns c).si = s.si := by unfold State.select; split <;> rfl
@[simp] theorem select_b (ns c : Nat) (s : State) : (s.select ns c).b = s.b := by unfold State.select; split <;> rfl
@[simp] theorem select_fst (ns c : Nat) (s : State) : (s.select ns c).fst = s.fst := by unfold State.select; split <;> rfl
@[simp] theorem select_freeEpoch (ns c : Nat) (s : State) : (s.select ns c).freeEpoch = s.freeEpoch := by unfold State.select; split <;> rfl
@[simp] theorem select_pollDue (ns c : Nat) (s : State) : (s.select ns c).pollDue = s.pollDue := by unfold State.select; split <;> rfl
@[simp] theorem select_hazard (ns c : Nat) (s : State) : (s.select ns c).hazard = s.hazard := by unfold State.select; split <;> rfl
@[simp] theorem select_schedule (ns c : Nat) (s : State) : (s.select ns c).schedule = s.schedule := by unfold State.select; split <;> rfl
@[simp] theorem select_reads (ns c : Nat) (s : State) : (s.select ns c).reads = s.reads := by unfold State.select; split <;> rfl

/-! ### `State.advance` -/

@[simp] theorem advance_params (s : State) : (s.advance).params = s.params := rfl
@[simp] theorem advance_configured (s : State) : (s.advance).configured = s.configured := rfl
@[simp] theorem advance_busy (s : State) : (s.advance).busy = s.busy := rfl
@[simp] theorem advance_err (s : State) : (s.advance).err = s.err := rfl
@[simp] theorem advance_kIn (s : State) : (s.advance).kIn = s.kIn := rfl
@[simp] theorem advance_gIn (s : State) : (s.advance).gIn = s.gIn := rfl
@[simp] theorem advance_ctrlIn (s : State) : (s.advance).ctrlIn = s.ctrlIn := rfl
@[simp] theorem advance_genIn (s : State) : (s.advance).genIn = s.genIn := rfl
@[simp] theorem advance_inLen (s : State) : (s.advance).inLen = s.inLen := rfl
@[simp] theorem advance_outLen (s : State) : (s.advance).outLen = s.outLen := rfl
@[simp] theorem advance_k (s : State) : (s.advance).k = s.k := rfl
@[simp] theorem advance_g (s : State) : (s.advance).g = s.g := rfl
@[simp] theorem advance_ctrl (s : State) : (s.advance).ctrl = s.ctrl := rfl
@[simp] theorem advance_gen (s : State) : (s.advance).gen = s.gen := rfl
@[simp] theorem advance_inMem (s : State) : (s.advance).inMem = s.inMem := rfl
@[simp] theorem advance_outMem (s : State) : (s.advance).outMem = s.outMem := rfl
@[simp] theorem advance_encState (s : State) : (s.advance).encState = s.encState := rfl
@[simp] theorem advance_cost (s : State) : (s.advance).cost = s.cost := rfl
@[simp] theorem advance_bp (s : State) : (s.advance).bp = s.bp := rfl
@[simp] theorem advance_opc (s : State) : (s.advance).opc = s.opc := rfl
@[simp] theorem advance_iIdx (s : State) : (s.advance).iIdx = s.iIdx := rfl
@[simp] theorem advance_nSteps (s : State) : (s.advance).nSteps = s.nSteps := rfl
@[simp] theorem advance_fst (s : State) : (s.advance).fst = s.fst := rfl
@[simp] theorem advance_freeEpoch (s : State) : (s.advance).freeEpoch = s.freeEpoch := rfl
@[simp] theorem advance_pollDue (s : State) : (s.advance).pollDue = s.pollDue := rfl
@[simp] theorem advance_hazard (s : State) : (s.advance).hazard = s.hazard := rfl
@[simp] theorem advance_schedule (s : State) : (s.advance).schedule = s.schedule := rfl
@[simp] theorem advance_reads (s : State) : (s.advance).reads = s.reads := rfl

/-! ### `State.traceBit` -/

@[simp] theorem traceBit_params (e : BpEntry) (s : State) : (s.traceBit e).params = s.params := rfl
@[simp] theorem traceBit_configured (e : BpEntry) (s : State) : (s.traceBit e).configured = s.configured := rfl
@[simp] theorem traceBit_busy (e : BpEntry) (s : State) : (s.traceBit e).busy = s.busy := rfl
@[simp] theorem traceBit_err (e : BpEntry) (s : State) : (s.traceBit e).err = s.err := rfl
@[simp] theorem traceBit_kIn (e : BpEntry) (s : State) : (s.traceBit e).kIn = s.kIn := rfl
@[simp] theorem traceBit_gIn (e : BpEntry) (s : State) : (s.traceBit e).gIn = s.gIn := rfl
@[simp] theorem traceBit_ctrlIn (e : BpEntry) (s : State) : (s.traceBit e).ctrlIn = s.ctrlIn := rfl
@[simp] theorem traceBit_genIn (e : BpEntry) (s : State) : (s.traceBit e).genIn = s.genIn := rfl
@[simp] theorem traceBit_inLen (e : BpEntry) (s : State) : (s.traceBit e).inLen = s.inLen := rfl
@[simp] theorem traceBit_outLen (e : BpEntry) (s : State) : (s.traceBit e).outLen = s.outLen := rfl
@[simp] theorem traceBit_k (e : BpEntry) (s : State) : (s.traceBit e).k = s.k := rfl
@[simp] theorem traceBit_g (e : BpEntry) (s : State) : (s.traceBit e).g = s.g := rfl
@[simp] theorem traceBit_ctrl (e : BpEntry) (s : State) : (s.traceBit e).ctrl = s.ctrl := rfl
@[simp] theorem traceBit_gen (e : BpEntry) (s : State) : (s.traceBit e).gen = s.gen := rfl
@[simp] theorem traceBit_inMem (e : BpEntry) (s : State) : (s.traceBit e).inMem = s.inMem := rfl
@[simp] theorem traceBit_outMem (e : BpEntry) (s : State) : (s.traceBit e).outMem = Memory.write s.outMem (s.t.toNat - 1) e.dec := rfl
@[simp] theorem traceBit_encState (e : BpEntry) (s : State) : (s.traceBit e).encState = s.encState := rfl
@[simp] theorem traceBit_cost (e : BpEntry) (s : State) : (s.traceBit e).cost = s.cost := rfl
@[simp] theorem traceBit_bp (e : BpEntry) (s : State) : (s.traceBit e).bp = s.bp := rfl
@[simp] theorem traceBit_phase (e : BpEntry) (s : State) : (s.traceBit e).phase = s.phase := rfl
@[simp] theorem traceBit_opc (e : BpEntry) (s : State) : (s.traceBit e).opc = s.opc := rfl
@[simp] theorem traceBit_iIdx (e : BpEntry) (s : State) : (s.traceBit e).iIdx = s.iIdx := rfl
@[simp] theorem traceBit_nSteps (e : BpEntry) (s : State) : (s.traceBit e).nSteps = s.nSteps := rfl
@[simp] theorem traceBit_t (e : BpEntry) (s : State) : (s.traceBit e).t = s.t - 1 := rfl
@[simp] theorem traceBit_si (e : BpEntry) (s : State) : (s.traceBit e).si = s.si := rfl
@[simp] theorem traceBit_b (e : BpEntry) (s : State) : (s.traceBit e).b = s.b := rfl
@[simp] theorem traceBit_fst (e : BpEntry) (s : State) : (s.traceBit e).fst = e.pred := rfl
@[simp] theorem traceBit_freeEpoch (e : BpEntry) (s : State) : (s.traceBit e).freeEpoch = s.freeEpoch := rfl
@[simp] theorem traceBit_pollDue (e : BpEntry) (s : State) : (s.traceBit e).pollDue = s.pollDue := rfl
@[simp] theorem traceBit_hazard (e : BpEntry) (s : State) : (s.traceBit e).hazard = s.hazard := rfl
@[simp] theorem traceBit_schedule (e : BpEntry) (s : State) : (s.traceBit e).schedule = s.schedule := rfl
@[simp] theorem traceBit_reads (e : BpEntry) (s : State) : (s.traceBit e).reads = s.reads := rfl

/-! ### `State.finishDecode` -/

@[simp] theorem finishDecode_params (s : State) : (s.finishDecode).params = s.params := rfl
@[simp] theorem finishDecode_configured (s : State) : (s.finishDecode).configured = s.configured := rfl
@[simp] theorem finishDecode_busy (s : State) : (s.finishDecode).busy = false := rfl
@[simp] theorem finishDecode_err (s : State) : (s.finishDecode).err = .none := rfl
@[simp] theorem finishDecode_kIn (s : State) : (s.finishDecode).kIn = s.kIn := rfl
@[simp] theorem finishDecode_gIn (s : State) : (s.finishDecode).gIn = s.gIn := rfl
@[simp] theorem finishDecode_ctrlIn (s : State) : (s.finishDecode).ctrlIn = s.ctrlIn := rfl
@[simp] theorem finishDecode_genIn (s : State) : (s.finishDecode).genIn = s.genIn := rfl
@[simp] theorem finishDecode_inLen (s : State) : (s.finishDecode).inLen = s.inLen := rfl
@[simp] theorem finishDecode_outLen (s : State) : (s.finishDecode).outLen = s.nSteps := rfl
@[simp] theorem finishDecode_k (s : State) : (s.finishDecode).k = s.k := rfl
@[simp] theorem finishDecode_g (s : State) : (s.finishDecode).g = s.g := rfl
@[simp] theorem finishDecode_ctrl (s : State) : (s.finishDecode).ctrl = s.ctrl := rfl
@[simp] theorem finishDecode_gen (s : State) : (s.finishDecode).gen = s.gen := rfl
@[simp] theorem finishDecode_inMem (s : State) : (s.finishDecode).inMem = s.inMem := rfl
@[simp] theorem finishDecode_outMem (s : State) : (s.finishDecode).outMem = s.outMem := rfl
@[simp] theorem finishDecode_encState (s : State) : (s.finishDecode).encState = s.encState := rfl
@[simp] theorem finishDecode_cost (s : State) : (s.finishDecode).cost = s.cost := rfl
@[simp] theorem finishDecode_bp (s : State) : (s.finishDecode).bp = s.bp := rfl
@[simp] theorem finishDecode_phase (s : State) : (s.finishDecode).phase = .idle := rfl
@[simp] theorem finishDecode_opc (s : State) : (s.finishDecode).opc = s.opc := rfl
@[simp] theorem finishDecode_iIdx (s : State) : (s.finishDecode).iIdx = s.iIdx := rfl
@[simp] theorem finishDecode_nSteps (s : State) : (s.finishDecode).nSteps = s.nSteps := rfl
@[simp] theorem finishDecode_t (s : State) : (s.finishDecode).t = s.t := rfl
@[simp] theorem finishDecode_si (s : State) : (s.finishDecode).si = s.si := rfl
@[simp] theorem finishDecode_b (s : State) : (s.finishDecode).b = s.b := rfl
@[simp] theorem finishDecode_fst (s : State) : (s.finishDecode).fst = s.fst := rfl
@[simp] theorem finishDecode_freeEpoch (s : State) : (s.finishDecode).freeEpoch = s.freeEpoch := rfl
@[simp] theorem finishDecode_pollDue (s : State) : (s.finishDecode).pollDue = s.pollDue := rfl
@[simp] theorem finishDecode_hazard (s : State) : (s.finishDecode).hazard = s.hazard := rfl
@[simp] theorem finishDecode_schedule (s : State) : (s.finishDecode).schedule = s.schedule := rfl
@[simp] theorem finishDecode_reads (s : State) : (s.finishDecode).reads = s.reads := rfl

/-! ### `State.observe` -/

@[simp] theorem observe_params (a v : Word) (s : State) : (s.observe a v).params = s.params := rfl
@[simp] theorem observe_configured (a v : Word) (s : State) : (s.observe a v).configured = s.configured := rfl
@[simp] theorem observe_busy (a v : Word) (s : State) : (s.observe a v).busy = s.busy := rfl
@[simp] theorem observe_err (a v : Word) (s : State) : (s.observe a v).err = s.err := rfl
@[simp] theorem observe_kIn (a v : Word) (s : State) : (s.observe a v).kIn = s.kIn := rfl
@[simp] theorem observe_gIn (a v : Word) (s : State) : (s.observe a v).gIn = s.gIn := rfl
@[simp] theorem observe_ctrlIn (a v : Word) (s : State) : (s.observe a v).ctrlIn = s.ctrlIn := rfl
@[simp] theorem observe_genIn (a v : Word) (s : State) : (s.observe a v).genIn = s.genIn := rfl
@[simp] theorem observe_inLen (a v : Word) (s : State) : (s.observe a v).inLen = s.inLen := rfl
@[simp] theorem observe_outLen (a v : Word) (s : State) : (s.observe a v).outLen = s.outLen := rfl
@[simp] theorem observe_k (a v : Word) (s : State) : (s.observe a v).k = s.k := rfl
@[simp] theorem observe_g (a v : Word) (s : State) : (s.observe a v).g = s.g := rfl
@[simp] theorem observe_ctrl (a v : Word) (s : State) : (s.observe a v).ctrl = s.ctrl := rfl
@[simp] theorem observe_gen (a v : Word) (s : State) : (s.observe a v).gen = s.gen := rfl
@[simp] theorem observe_inMem (a v : Word) (s : State) : (s.observe a v).inMem = s.inMem := rfl
@[simp] theorem observe_outMem (a v : Word) (s : State) : (s.observe a v).outMem = s.outMem := rfl
@[simp] theorem observe_encState (a v : Word) (s : State) : (s.observe a v).encState = s.encState := rfl
@[simp] theorem observe_cost (a v : Word) (s : State) : (s.observe a v).cost = s.cost := rfl
@[simp] theorem observe_bp (a v : Word) (s : State) : (s.observe a v).bp = s.bp := rfl
@[simp] theorem observe_phase (a v : Word) (s : State) : (s.observe a v).phase = s.phase := rfl
@[simp] theorem observe_opc (a v : Word) (s : State) : (s.observe a v).opc = s.opc := rfl
@[simp] theorem observe_iIdx (a v : Word) (s : State) : (s.observe a v).iIdx = s.iIdx := rfl
@[simp] theorem observe_nSteps (a v : Word) (s : State) : (s.observe a v).nSteps = s.nSteps := rfl
@[simp] theorem observe_t (a v : Word) (s : State) : (s.observe a v).t = s.t := rfl
@[simp] theorem observe_si (a v : Word) (s : State) : (s.observe a v).si = s.si := rfl
@[simp] theorem observe_b (a v : Word) (s : State) : (s.observe a v).b = s.b := rfl
@[simp] theorem observe_fst (a v : Word) (s : State) : (s.observe a v).fst = s.fst := rfl
@[simp] theorem observe_freeEpoch (a v : Word) (s : State) : (s.observe a v).freeEpoch = s.freeEpoch := rfl
@[simp] theorem observe_pollDue (a v : Word) (s : State) : (s.observe a v).pollDue = (s.pollDue && !(s.isStatusRead a && !s.busy)) := rfl
@[simp] theorem observe_hazard (a v : Word) (s : State) :
    (s.observe a v).hazard = (s.hazard || (s.pollWindow && !s.isStatusRead a)) := rfl
@[simp] theorem observe_schedule (a v : Word) (s : State) : (s.observe a v).schedule = s.schedule := rfl
@[simp] theorem observe_reads (a v : Word) (s : State) : (s.observe a v).reads = v :: s.reads := rfl

/-! ### `State.noteAccess` -/

@[simp] theorem noteAccess_params (s : State) : s.noteAccess.params = s.params := rfl
@[simp] theorem noteAccess_configured (s : State) : s.noteAccess.configured = s.configured := rfl
@[simp] theorem noteAccess_busy (s : State) : s.noteAccess.busy = s.busy := rfl
@[simp] theorem noteAccess_err (s : State) : s.noteAccess.err = s.err := rfl
@[simp] theorem noteAccess_kIn (s : State) : s.noteAccess.kIn = s.kIn := rfl
@[simp] theorem noteAccess_gIn (s : State) : s.noteAccess.gIn = s.gIn := rfl
@[simp] theorem noteAccess_ctrlIn (s : State) : s.noteAccess.ctrlIn = s.ctrlIn := rfl
@[simp] theorem noteAccess_genIn (s : State) : s.noteAccess.genIn = s.genIn := rfl
@[simp] theorem noteAccess_inLen (s : State) : s.noteAccess.inLen = s.inLen := rfl
@[simp] theorem noteAccess_outLen (s : State) : s.noteAccess.outLen = s.outLen := rfl
@[simp] theorem noteAccess_k (s : State) : s.noteAccess.k = s.k := rfl
@[simp] theorem noteAccess_g (s : State) : s.noteAccess.g = s.g := rfl
@[simp] theorem noteAccess_ctrl (s : State) : s.noteAccess.ctrl = s.ctrl := rfl
@[simp] theorem noteAccess_gen (s : State) : s.noteAccess.gen = s.gen := rfl
@[simp] theorem noteAccess_inMem (s : State) : s.noteAccess.inMem = s.inMem := rfl
@[simp] theorem noteAccess_outMem (s : State) : s.noteAccess.outMem = s.outMem := rfl
@[simp] theorem noteAccess_encState (s : State) : s.noteAccess.encState = s.encState := rfl
@[simp] theorem noteAccess_cost (s : State) : s.noteAccess.cost = s.cost := rfl
@[simp] theorem noteAccess_bp (s : State) : s.noteAccess.bp = s.bp := rfl
@[simp] theorem noteAccess_phase (s : State) : s.noteAccess.phase = s.phase := rfl
@[simp] theorem noteAccess_opc (s : State) : s.noteAccess.opc = s.opc := rfl
@[simp] theorem noteAccess_iIdx (s : State) : s.noteAccess.iIdx = s.iIdx := rfl
@[simp] theorem noteAccess_nSteps (s : State) : s.noteAccess.nSteps = s.nSteps := rfl
@[simp] theorem noteAccess_t (s : State) : s.noteAccess.t = s.t := rfl
@[simp] theorem noteAccess_si (s : State) : s.noteAccess.si = s.si := rfl
@[simp] theorem noteAccess_b (s : State) : s.noteAccess.b = s.b := rfl
@[simp] theorem noteAccess_fst (s : State) : s.noteAccess.fst = s.fst := rfl
@[simp] theorem noteAccess_freeEpoch (s : State) : s.noteAccess.freeEpoch = s.freeEpoch := rfl
@[simp] theorem noteAccess_pollDue (s : State) : s.noteAccess.pollDue = s.pollDue := rfl
@[simp] theorem noteAccess_schedule (s : State) : s.noteAccess.schedule = s.schedule := rfl
@[simp] theorem noteAccess_reads (s : State) : s.noteAccess.reads = s.reads := rfl
@[simp] theorem noteAccess_hazard (s : State) : s.noteAccess.hazard = (s.hazard || s.pollWindow) := rfl

end Sys2Proof.Laws
end

