-- ==== Sys2Proof/Laws/Exec.lean ====
section
/-! SUPPORT. What each command's meaning, the ENGINE's step and the HOST's step can do, said once each: every next
state they answer, and every fault. -/

namespace Sys2Proof.Laws

open Sys2Proof.Machine Sys2Proof.Safety

variable {s t : State}

/-- Every next state of CONFIGURE (R110). -/
theorem execConfigure_cases (h : execConfigure s = .next t) :
    (s.phase = .idle ∧ t = s.acceptCommand (encode .configure)) ∨
    (s.phase = .check ∧ s.stagedInvalid = true ∧ t = s.endCommand .invalidConfiguration) ∨
    (s.phase = .check ∧ s.stagedInvalid = false ∧ s.stagedTooLarge = true ∧ t = s.endCommand .capacity) ∨
    (s.phase = .check ∧ s.stagedInvalid = false ∧ s.stagedTooLarge = false ∧
      t = { s with phase := .cfgCommit }) ∨
    (s.phase = .cfgCommit ∧ t = s.commitConfig.endCommand .none) := by
  unfold execConfigure configureCheck raiseError at h
  cases hp : s.phase <;> simp only [hp] at h
  case idle => cases h; simp
  case check =>
    split at h
    · cases h; simp_all
    · split at h <;> cases h <;> simp_all
  case cfgCommit => cases h; simp
  all_goals cases h

/-- Every next state of ENCODE (R130). -/
theorem execEncode_cases (h : execEncode s = .next t) :
    (s.phase = .idle ∧ t = s.acceptCommand (encode .encode)) ∨
    (s.phase = .check ∧ s.configured = false ∧ t = s.endCommand .notConfigured) ∨
    (s.phase = .check ∧ s.configured = true ∧ s.encodeTooLarge = true ∧ t = s.endCommand .capacity) ∨
    (s.phase = .check ∧ s.configured = true ∧ s.encodeTooLarge = false ∧ t = s.startEncode) ∨
    (s.phase = .encStep ∧ s.iIdx = s.inLen ∧ t = s.finishEncode) ∨
    (s.phase = .encStep ∧ s.iIdx ≠ s.inLen ∧
      ∃ x, Memory.read s.inMem s.iIdx.toNat = some x ∧ t = s.encodeBit x) := by
  unfold execEncode encodeCheck encodeStep raiseError at h
  cases hp : s.phase <;> simp only [hp] at h
  case idle => cases h; simp
  case check =>
    split at h
    · cases h; simp_all
    · split at h <;> cases h <;> simp_all
  case encStep =>
    split at h
    · cases h; simp_all
    · split at h <;> cases h; simp_all
  all_goals cases h

/-- Every next state of DECODE (R150, R180). -/
theorem execDecode_cases (h : execDecode s = .next t) :
    (s.phase = .idle ∧ t = s.acceptCommand (encode .decode)) ∨
    (s.phase = .check ∧ s.configured = false ∧ t = s.endCommand .notConfigured) ∨
    (s.phase = .check ∧ s.configured = true ∧ s.lengthInvalid = true ∧ t = s.endCommand .invalidInputLength) ∨
    (s.phase = .check ∧ s.configured = true ∧ s.lengthInvalid = false ∧ s.decodeTooLarge = true ∧
      t = s.endCommand .capacity) ∨
    (s.phase = .check ∧ s.configured = true ∧ s.lengthInvalid = false ∧ s.decodeTooLarge = false ∧
      t = s.startDecode) ∨
    (s.phase = .decInit ∧ s.nSteps = 0 ∧ t = { s.initTrellis with outLen := 0 }.endCommand .none) ∨
    (s.phase = .decInit ∧ s.nSteps ≠ 0 ∧ t = s.initTrellis.startForward) ∨
    (s.phase = .decAcs ∧ s.costAt s.t.toNat s.si = s.inf ∧ t = s.advance) ∨
    (s.phase = .decAcs ∧ s.costAt s.t.toNat s.si ≠ s.inf ∧
      ∃ seg, s.segmentCost (shiftIn s.si s.b) (s.t.toNat * s.gNum) s.gNum = .ok seg ∧
        t = (s.select (s.nextState (shiftIn s.si s.b)) (satadd s.inf (s.costAt s.t.toNat s.si) seg)).advance) ∨
    (s.phase = .decSel ∧ t = { s with fst := s.terminalState, t := s.nSteps, phase := .decTb }) ∨
    (s.phase = .decTb ∧ s.t = 0 ∧ t = s.finishDecode) ∨
    (s.phase = .decTb ∧ s.t ≠ 0 ∧ (s.bpAt s.t.toNat s.fst).valid = true ∧
      t = s.traceBit (s.bpAt s.t.toNat s.fst)) := by
  unfold execDecode decodeCheck decodeInit decodeAcs decodeSelect decodeTraceback raiseError at h
  cases hp : s.phase <;> simp only [hp] at h
  case idle => cases h; simp
  case check =>
    split at h
    · cases h; simp_all
    · split at h
      · cases h; simp_all
      · split at h <;> cases h <;> simp_all
  case decInit => split at h <;> cases h <;> simp_all
  case decAcs =>
    split at h
    · cases h; simp_all
    · split at h <;> cases h; simp_all
  case decSel => cases h; simp
  case decTb =>
    split at h
    · cases h; simp_all
    · split at h <;> cases h; simp_all
  all_goals cases h

/-- Every next state of the ENGINE (R46): none moves in IDLE, an illegal word ends in CHECK, otherwise a command's
meaning in one of its own phases. -/
theorem engineStep_cases (h : engineStep s = .next t) :
    (s.phase = .idle ∧ t = s) ∨
    (s.phase = .check ∧ (∀ i, decodeWord s.opc ≠ .ok i) ∧ t = s.endCommand .illegalCommand) ∨
    (s.phase = .check ∧ ∃ i, decodeWord s.opc = .ok i ∧ exec i s = .next t) ∨
    (∃ i, phaseCommand s.phase = some i ∧ exec i s = .next t) := by
  unfold engineStep engineCheck raiseError at h
  cases hp : s.phase <;> simp only [hp] at h
  case idle => cases h; simp
  case check =>
    cases hd : decodeWord s.opc with
    | ok i => rw [hd] at h; simp [h]
    | error e => rw [hd] at h; cases h; simp
  all_goals simp [phaseCommand, h]

/-- The ENGINE in a working phase runs that phase's command (R46). -/
theorem engineStep_of_phase {i : Instr} (h : phaseCommand s.phase = some i) : engineStep s = exec i s := by
  unfold engineStep
  cases hp : s.phase <;> simp only [hp, phaseCommand] at h <;> cases h <;> rfl

/-- The ENGINE in CHECK runs the decoded command (R208). -/
theorem engineStep_of_check {i : Instr} (hp : s.phase = .check) (h : decodeWord s.opc = .ok i) :
    engineStep s = exec i s := by
  simp [engineStep, engineCheck, hp, h]

/-- No meaning refuses. -/
theorem exec_not_refused (i : Instr) (s : State) (r : Refusal) : exec i s ≠ .refused r := by
  cases i <;> intro h
  · simp only [exec, execConfigure, configureCheck, raiseError] at h
    repeat' split at h
    all_goals cases h
  · simp only [exec, execEncode, encodeCheck, encodeStep, raiseError] at h
    repeat' split at h
    all_goals cases h
  · simp only [exec, execDecode, decodeCheck, decodeInit, decodeAcs, decodeSelect, decodeTraceback, raiseError] at h
    repeat' split at h
    all_goals cases h

/-- Every fault of a meaning: an unreadable input element, an invalid back-pointer, or a phase of another command. -/
theorem exec_fault {i : Instr} {f : Fault} (h : exec i s = .fault f) :
    (s.phase = .encStep ∧ s.iIdx ≠ s.inLen ∧ Memory.read s.inMem s.iIdx.toNat = none ∧
      f = .engineReadNoValue s.iIdx.toNat) ∨
    (s.phase = .decAcs ∧ s.costAt s.t.toNat s.si ≠ s.inf ∧ ∃ j, j < s.gNum ∧
      Memory.read s.inMem (s.t.toNat * s.gNum + j) = none ∧ f = .engineReadNoValue (s.t.toNat * s.gNum + j)) ∨
    (s.phase = .decTb ∧ s.t ≠ 0 ∧ (s.bpAt s.t.toNat s.fst).valid = false ∧ f = .invalidBackPointer) ∨
    (phaseCommand s.phase ≠ none ∧ phaseCommand s.phase ≠ some i ∧ f = .phaseMismatch) := by
  cases i
  · simp only [exec, execConfigure, configureCheck, raiseError] at h
    cases hp : s.phase <;> simp only [hp] at h
    case check => repeat' split at h
                  all_goals cases h
    all_goals first | (cases h; done) | (cases h; simp [phaseCommand])
  · simp only [exec, execEncode, encodeCheck, encodeStep, raiseError] at h
    cases hp : s.phase <;> simp only [hp] at h
    case check => repeat' split at h
                  all_goals cases h
    case encStep =>
      split at h
      · cases h
      · split at h <;> cases h; simp_all
    all_goals first | (cases h; done) | (cases h; simp [phaseCommand])
  · simp only [exec, execDecode, decodeCheck, decodeInit, decodeAcs, decodeSelect, decodeTraceback, raiseError] at h
    cases hp : s.phase <;> simp only [hp] at h
    case check => repeat' split at h
                  all_goals cases h
    case decInit => split at h <;> cases h
    case decAcs =>
      split at h
      · cases h
      · split at h
        · rename_i hc _ _ he
          cases h
          exact .inr (.inl ⟨rfl, hc, segmentCost_error he⟩)
        · cases h
    case decTb =>
      split at h
      · cases h
      · split at h <;> cases h; simp_all
    all_goals first | (cases h; done) | (cases h; simp [phaseCommand])

/-- Every next state of a host read (R63). -/
theorem hostRead_cases {a : Word} (h : hostRead a s = .next t) :
    (s.busy = true → s.isStatusRead a = true) ∧ ∃ v, readWord a s = .ok v ∧ t = s.observe a v := by
  unfold hostRead at h
  split at h
  · cases h
  · split at h <;> cases h
    simp_all

/-- Every next state of a host write (R64). -/
theorem hostWrite_cases {a w : Word} (h : hostWrite a w s = .next t) :
    s.busy = false ∧ ∃ tgt, decodeAddr s.params a = some tgt ∧ t = s.noteAccess.writeTarget tgt w := by
  unfold hostWrite at h
  split at h
  · cases h
  · split at h <;> cases h
    simp_all

/-- Every next state of the model (R14). -/
theorem step_cases (h : step s = .next t) :
    (EngineTurn s ∧ engineStep (takeTurn s) = .next t) ∨
    (∃ op, s.schedule.head? = some (.host op) ∧ hostStep op (takeTurn s) = .next t) := by
  unfold step at h
  split at h
  · rename_i hs
    refine .inl ⟨.inl hs, ?_⟩
    have : takeTurn s = s := by cases s; simp_all [takeTurn]
    rw [this]; exact h
  · rename_i rest hs
    exact .inl ⟨.inr (by simp [hs]), by simpa [takeTurn, hs] using h⟩
  · rename_i op rest hs
    exact .inr ⟨op, by simp [hs], by simpa [takeTurn, hs] using h⟩

end Sys2Proof.Laws
end

