-- ==== Sys2Proof/Laws/Words.lean ====
section
/-! SUPPORT. Fields of command words and host addresses, the register map, and the checks of the commands as
propositions. -/

namespace Sys2Proof.Laws

open Sys2Proof.Machine

/-! ### Command words (R92) -/

theorem opField_toNat (w : Word) : (opField w).toNat = w.toNat % 16 := by
  simp [opField, BitVec.extractLsb'_toNat]

theorem rsvdField_toNat (w : Word) : (rsvdField w).toNat = w.toNat / 16 := by
  have := w.isLt
  simp [rsvdField, BitVec.extractLsb'_toNat, Nat.shiftRight_eq_div_pow]
  omega

/-! ### Host addresses (R61) -/

theorem addrRegion_eq (a : Word) : addrRegion a = a.toNat / 2 ^ 28 := by
  have := a.isLt
  simp [addrRegion, BitVec.extractLsb'_toNat, Nat.shiftRight_eq_div_pow]
  omega

theorem addrOffset_eq (a : Word) : addrOffset a = a.toNat % 2 ^ 28 := by
  simp [addrOffset, BitVec.extractLsb'_toNat]

/-- A register offset selects no element of a bit memory. -/
theorem regTarget_not_window (p : Params) (off i : Nat) :
    regTarget p off ≠ some (.inMem i) ∧ regTarget p off ≠ some (.outMem i) := by
  have h1 : fixedTarget off = none ∨ ∃ t, fixedTarget off = some t ∧ (∀ i, t ≠ .inMem i ∧ t ≠ .outMem i) := by
    unfold fixedTarget
    split <;> simp
  have h2 : ∀ i, genTarget p off ≠ some (.inMem i) ∧ genTarget p off ≠ some (.outMem i) := by
    intro i
    unfold genTarget
    split_ifs <;> simp
  rcases h1 with h1 | ⟨t, h1, h⟩
  · simpa [regTarget, h1] using h2 i
  · simpa [regTarget, h1] using h i

/-- An address that selects an IN_MEM element selects one below L_MAX. -/
theorem decodeAddr_inMem {p : Params} {a : Word} {i : Nat} (h : decodeAddr p a = some (.inMem i)) : i < p.lMax := by
  unfold decodeAddr at h
  split_ifs at h with h1 h2 h3 h4 h5
  · exact absurd h (regTarget_not_window p _ i).1
  · injection h with h; injection h with h; omega
  · injection h with h; cases h

/-! ### Bits and words -/

theorem bit0Word_toNat (w : Word) : (bit0Word w).toNat = w.toNat % 2 := by
  simp [bit0Word, BitVec.extractLsb'_toNat]; omega

/-! ### The checks of the commands -/

theorem stagedInvalid_iff (s : State) : s.stagedInvalid = true ↔ s.kIn.toInt ≤ 0 ∨ s.gIn = 0 :=
  decide_eq_true_iff

theorem stagedTooLarge_iff (s : State) :
    s.stagedTooLarge = true ↔ (s.params.kMax : Int) < s.kIn.toInt ∨ s.params.gMax < s.gIn.toNat :=
  decide_eq_true_iff

theorem encodeTooLarge_iff (s : State) : s.encodeTooLarge = true ↔ s.params.lMax < s.inLen.toNat * s.g.toNat :=
  decide_eq_true_iff

theorem lengthInvalid_iff (s : State) : s.lengthInvalid = true ↔ s.inLen.toNat % s.g.toNat ≠ 0 :=
  decide_eq_true_iff

theorem decodeTooLarge_iff (s : State) :
    s.decodeTooLarge = true ↔ s.params.lMax < s.inLen.toNat ∨ s.params.nMax < s.inLen.toNat / s.g.toNat :=
  decide_eq_true_iff

end Sys2Proof.Laws
end

