-- ==== Sys2Proof/Laws/HostBus.lean ====
section
/-! SUPPORT. The host bus: addresses by region and offset, the one STATUS address, and what a read and a write of a
mapped target answer. -/

namespace Sys2Proof.Laws

open Sys2Proof.Machine Sys2Proof.Safety

variable {s : State}

/-- An address is its region and its offset (R61). -/
theorem addr_ext {a b : Word} (h1 : addrRegion a = addrRegion b) (h2 : addrOffset a = addrOffset b) : a = b := by
  rw [addrRegion_eq, addrRegion_eq] at h1
  rw [addrOffset_eq, addrOffset_eq] at h2
  apply BitVec.eq_of_toNat_eq
  omega

theorem toNat_add_ofNat {c : Word} {j : Nat} (h : c.toNat + j < 2 ^ 32) :
    (c + BitVec.ofNat 32 j).toNat = c.toNat + j := by
  simp [BitVec.toNat_add]; omega

/-- Only address 1 is STATUS (R62). -/
theorem isStatusRead_iff (s : State) (a : Word) : s.isStatusRead a = true ↔ a = 1 := by
  unfold State.isStatusRead
  rw [decide_eq_true_iff]
  constructor
  · intro h
    have h1 : addrRegion a = 0 := by
      unfold decodeAddr at h
      split_ifs at h with h1 h2 h3 h4 h5 <;> first | exact h1 | simp at h
    unfold decodeAddr at h
    rw [if_pos h1] at h
    unfold regTarget at h
    have : addrOffset a = 1 := by
      cases hf : fixedTarget (addrOffset a) with
      | some u =>
        rw [hf] at h; simp at h; subst h
        revert hf; unfold fixedTarget; split <;> intro hf <;> first | assumption | cases hf
      | none => rw [hf] at h; simp at h; unfold genTarget at h; split_ifs at h <;> simp at h
    exact addr_ext h1 this
  · rintro rfl; rfl

/-- Outside the busy window no command runs and none awaits its STATUS read (R234). -/
theorem pollWindow_eq_false (s : State) : s.pollWindow = false ↔ s.busy = false ∧ s.pollDue = false :=
  Bool.or_eq_false_iff

/-- The busy window (R234). -/
theorem pollWindow_eq_true (s : State) : s.pollWindow = true ↔ s.busy = true ∨ s.pollDue = true :=
  Bool.or_eq_true_iff

/-- Outside the busy window an access leaves no record (R234). -/
theorem noteAccess_outside (hw : s.pollWindow = false) : s.noteAccess = s := by
  rw [State.noteAccess, hw, Bool.or_false]

/-- A second access in the same window adds nothing to the record (R220: never cleared). -/
theorem hazard_recorded (s : State) :
    (s.noteAccess.hazard || s.noteAccess.pollWindow) = s.noteAccess.hazard := by
  change ((s.hazard || s.pollWindow) || s.pollWindow) = (s.hazard || s.pollWindow)
  rw [Bool.or_assoc, Bool.or_self]

/-- A write of a mapped target while BUSY = 0 (R64). -/
theorem hostWrite_of {a w : Word} {tgt : Target} (hb : s.busy = false) (h : decodeAddr s.params a = some tgt) :
    hostWrite a w s = .next (s.noteAccess.writeTarget tgt w) := by
  rw [hostWrite, if_neg (by simp [hb]), h]

/-- A read while BUSY = 0, or of STATUS (R63). -/
theorem hostRead_of {a v : Word} (hb : s.busy = true → s.isStatusRead a = true) (h : readWord a s = .ok v) :
    hostRead a s = .next (s.observe a v) := by
  rw [hostRead, if_neg (fun e => by
    rw [Bool.and_eq_true, Bool.not_eq_true'] at e
    rw [hb e.1] at e
    exact absurd e.2 (by decide)), h]

/-- A read of anything but STATUS while BUSY = 0 hands its word to the host, and is recorded where it breaks R234. -/
theorem hostRead_idle {a v : Word} (hb : s.busy = false) (hs : s.isStatusRead a = false) (h : readWord a s = .ok v) :
    hostRead a s = .next { s.noteAccess with reads := v :: s.reads } := by
  rw [hostRead_of (by simp [hb]) h, State.observe, hs]
  simp [State.noteAccess]

/-- What a write of any target leaves: the active configuration, STATUS but for BUSY, OUT_MEM, OUT_LEN, the trellis
memories and the recorded hazard (R64, R68). -/
theorem writeTarget_keeps (s : State) (tgt : Target) (w : Word) :
    (s.writeTarget tgt w).k = s.k ∧ (s.writeTarget tgt w).g = s.g ∧ (s.writeTarget tgt w).ctrl = s.ctrl ∧
    (s.writeTarget tgt w).gen = s.gen ∧ (s.writeTarget tgt w).configured = s.configured ∧
    (s.writeTarget tgt w).err = s.err ∧ (s.writeTarget tgt w).outMem = s.outMem ∧
    (s.writeTarget tgt w).outLen = s.outLen ∧ (s.writeTarget tgt w).cost = s.cost ∧
    (s.writeTarget tgt w).bp = s.bp ∧ (s.writeTarget tgt w).hazard = s.hazard := by
  cases tgt <;> exact ⟨rfl, rfl, rfl, rfl, rfl, rfl, rfl, rfl, rfl, rfl, rfl⟩

/-! ### The end of a run (R243) -/

/-- The end state says nothing of the HOST agent's own data. -/
@[simp] theorem endState_eraseHost (s : State) : (eraseHost s).endState = s.endState := rfl

/-- A run is over exactly when no host turn is left and PHASE = IDLE. -/
theorem runOver_iff (s : State) : s.runOver = true ↔ (∀ op, Turn.host op ∉ s.schedule) ∧ s.phase = .idle := by
  rw [State.runOver, Bool.and_eq_true, decide_eq_true_iff, Bool.not_eq_true', List.any_eq_false]
  refine and_congr_left fun _ => ⟨fun h op hm => h _ hm rfl, fun h x hm => ?_⟩
  cases x with
  | host op => exact absurd hm (h op)
  | engine => simp [Turn.isHost]

end Sys2Proof.Laws
end

