-- ==== Sys2Proof/Laws/PerInstr.lean ====
section
/-! SUPPORT. The per-command family: what the encoding of each command is, as syntax. -/

namespace Sys2Proof.Laws

/-- The encoding of a command (R92, R93): it is well formed, RSVD is 0, OP is its operation code, neither reserved
value 0 nor one of 4 to 15, and the command word is that number. -/
def Encoding.Statement (i : Instr) : Prop :=
  i.wellFormed = true ∧ rsvdField (encode i) = 0 ∧ opField (encode i) = opcode i ∧
  1 ≤ (encode i).toNat ∧ (encode i).toNat ≤ 3

theorem Encoding.configure : Encoding.Statement .configure := by
  unfold Encoding.Statement; decide

theorem Encoding.encode : Encoding.Statement .encode := by
  unfold Encoding.Statement; decide

theorem Encoding.decode : Encoding.Statement .decode := by
  unfold Encoding.Statement; decide

end Sys2Proof.Laws
end

