-- ==== Sys2Proof/Laws/Trellis.lean ====
section
/-! SUPPORT. The trellis memories cell by cell: what DEC_INIT and compare-and-select leave in each, the order of the
candidates, and what the core's invariant says of the sizes. -/

namespace Sys2Proof.Laws

open Sys2Proof.Machine Sys2Proof.Safety

variable {s : State}

/-! ### Counters -/

theorem inc_toNat {a b : Word} (hle : a.toNat ≤ b.toNat) (hne : a ≠ b) :
    (a + 1).toNat = a.toNat + 1 ∧ a.toNat < b.toNat := by
  have : a.toNat ≠ b.toNat := fun e => hne (BitVec.eq_of_toNat_eq e)
  have := b.isLt
  constructor
  · simp [BitVec.toNat_add]; omega
  · omega

theorem dec_toNat {a : Word} (hne : a ≠ 0) : (a - 1).toNat = a.toNat - 1 ∧ 0 < a.toNat := by
  have : a.toNat ≠ 0 := fun e => hne (BitVec.eq_of_toNat_eq (by simpa using e))
  have := a.isLt
  refine ⟨?_, by omega⟩
  simp [BitVec.toNat_sub]; omega

/-! ### Flat indices (R73) -/

theorem cellIndex_lt {n st N : Nat} (h1 : n ≤ N) (h2 : st < s.stateCount) :
    s.cellIndex n st < (N + 1) * s.stateCount := by
  show n * s.stateCount + st < _
  calc _ < n * s.stateCount + s.stateCount := by omega
    _ = (n + 1) * s.stateCount := by simp only [Nat.add_mul, Nat.one_mul]
    _ ≤ _ := Nat.mul_le_mul_right _ (by omega)

theorem cellIndex_inj {n st n' st' : Nat} (h : st < s.stateCount) (h' : st' < s.stateCount) :
    s.cellIndex n st = s.cellIndex n' st' ↔ n = n' ∧ st = st' := by
  unfold State.cellIndex
  constructor
  · intro e
    have q : ∀ a b, b < s.stateCount → (a * s.stateCount + b) / s.stateCount = a := fun a b hb => by
      rw [Nat.mul_comm, Nat.mul_add_div (by omega), Nat.div_eq_of_lt hb]; rfl
    have a : n = n' := by rw [← q n st h, e, q n' st' h']
    subst a
    exact ⟨rfl, by omega⟩
  · rintro ⟨rfl, rfl⟩; rfl

/-! ### DEC_INIT (R153) -/

theorem initTrellis_costCell (s : State) (a : Nat) :
    s.initTrellis.costCell a = if a = 0 then 0 else if a < s.trellisSize then s.inf else s.costCell a := by
  have h0 : s.cellIndex 0 0 = 0 := by simp [State.cellIndex]
  unfold State.costCell
  rw [initTrellis_cost, Memory_read_write, h0, Memory_read_fillBelow]
  split
  · rfl
  · split <;> rfl

theorem initTrellis_bpCell (s : State) (a : Nat) :
    s.initTrellis.bpCell a = if a < s.trellisSize then { s.bpCell a with valid := false } else s.bpCell a := by
  show (Memory.read s.initTrellis.bp a).getD _ = _
  rw [initTrellis_bp, Memory_read_fillBelow]
  split <;> rfl

/-! ### Compare and select (R156) -/

/-- Everything `select` does to COST: cell `(T+1, ns)` takes the candidate cost if that is less; no other cell changes. -/
theorem select_costAt {ns c n st : Nat} (h1 : ns < s.stateCount) (h2 : st < s.stateCount) :
    (s.select ns c).costAt n st =
      if n = s.t.toNat + 1 ∧ st = ns ∧ c < s.costAt (s.t.toNat + 1) ns then c else s.costAt n st := by
  unfold State.select
  split
  · rename_i hc
    show (Memory.read (Memory.write s.cost _ c) (s.cellIndex n st)).getD _ = _
    rw [Memory_read_write]
    by_cases h : n = s.t.toNat + 1 ∧ st = ns
    · obtain ⟨rfl, rfl⟩ := h
      rw [if_pos rfl, if_pos ⟨rfl, rfl, hc⟩]; rfl
    · rw [if_neg (fun e => h ((cellIndex_inj h2 h1).1 e)), if_neg (fun e => h ⟨e.1, e.2.1⟩)]; rfl
  · rename_i hc
    rw [if_neg (fun e => hc e.2.2)]

/-- Everything `select` does to BP: the entry of `(T+1, ns)` records SI and B if the candidate wins. -/
theorem select_bpAt {ns c n st : Nat} (h1 : ns < s.stateCount) (h2 : st < s.stateCount) :
    (s.select ns c).bpAt n st =
      if n = s.t.toNat + 1 ∧ st = ns ∧ c < s.costAt (s.t.toNat + 1) ns then ⟨true, s.si, s.b⟩ else s.bpAt n st := by
  unfold State.select
  split
  · rename_i hc
    show (Memory.read (Memory.write s.bp _ _) (s.cellIndex n st)).getD _ = _
    rw [Memory_read_write]
    by_cases h : n = s.t.toNat + 1 ∧ st = ns
    · obtain ⟨rfl, rfl⟩ := h
      rw [if_pos rfl, if_pos ⟨rfl, rfl, hc⟩]; rfl
    · rw [if_neg (fun e => h ((cellIndex_inj h2 h1).1 e)), if_neg (fun e => h ⟨e.1, e.2.1⟩)]; rfl
  · rename_i hc
    rw [if_neg (fun e => hc e.2.2)]

/-! ### The order of the candidates (R157, R165) -/

/-- The four ways the counters advance. -/
theorem advance_forms (s : State) :
    (s.b = 0 ∧ s.si ≠ s.stateCount ∧
      s.advance = { s with b := 1, phase := if s.t = s.nSteps then .decSel else .decAcs }) ∨
    (s.b = 0 ∧ s.si = s.stateCount ∧
      s.advance = { s with b := 1, si := 0, t := s.t + 1, phase := if s.t + 1 = s.nSteps then .decSel else .decAcs }) ∨
    (s.b = 1 ∧ s.si + 1 ≠ s.stateCount ∧
      s.advance = { s with b := 0, si := s.si + 1, phase := if s.t = s.nSteps then .decSel else .decAcs }) ∨
    (s.b = 1 ∧ s.si + 1 = s.stateCount ∧
      s.advance = { s with b := 0, si := 0, t := s.t + 1, phase := if s.t + 1 = s.nSteps then .decSel else .decAcs }) := by
  have hb : s.b = 0 ∨ s.b = 1 := by
    generalize s.b = b
    revert b
    decide
  rcases hb with hb | hb
  · by_cases h : s.si = s.stateCount
    · right; left; simp [State.advance, hb, h]
    · left; simp [State.advance, hb, h]
  · by_cases h : s.si + 1 = s.stateCount
    · right; right; right; simp [State.advance, hb, h]
    · right; right; left; simp [State.advance, hb, h]

/-! ### The terminal state (R180) -/

theorem terminalState_lt (s : State) : s.terminalState < s.stateCount := by
  have := stateCount_pos s
  unfold State.terminalState
  split
  · exact this
  · have := (argMin_spec (s.costAt s.nSteps.toNat) (s.stateCount - 1)).1
    omega

/-! ### What the core's invariant says of the trellis -/

theorem costCell_le_inf (h : CoreInv s) (i : Nat) : s.costCell i ≤ s.inf := by
  unfold State.costCell
  cases e : Memory.read s.cost i with
  | none =>
    have := Nat.mod_lt (Config.freeCost s.freeEpoch i) (Nat.two_pow_pos s.params.costW)
    simp only [Option.getD_none, State.inf]; omega
  | some v => exact (h.costForm.2 _ (Memory_mem_of_read e)).2

theorem bpCell_pred_lt (h : CoreInv s) (i : Nat) : (s.bpCell i).pred < 2 ^ (s.params.kMax - 1) := by
  unfold State.bpCell
  cases e : Memory.read s.bp i with
  | none => exact Nat.mod_lt _ (Nat.two_pow_pos _)
  | some v => exact (h.bpForm.2 _ (Memory_mem_of_read e)).2

theorem stateCount_le (h : CoreInv s) (hc : s.configured = true) : s.stateCount ≤ 2 ^ (s.params.kMax - 1) := by
  have := h.configuredRange hc
  exact Nat.pow_le_pow_right (by decide) (by omega)

/-- The running trellis fits the memories (R38, R39). -/
theorem trellisSize_le (h : CoreInv s) (hd : decoding s.phase = true) :
    s.trellisSize ≤ (s.params.nMax + 1) * 2 ^ (s.params.kMax - 1) := by
  obtain ⟨h1, h2, h3⟩ := h.decodingSize hd
  have hg := h.configuredRange h1
  simp only [State.decodeTooLarge, decide_eq_false_iff_not, not_or, Nat.not_lt] at h2
  rw [h3, Nat.mul_div_cancel _ (by omega)] at h2
  exact Nat.mul_le_mul (by omega) (stateCount_le h h1)

/-- A path of a running DECODE is too short for its cost to reach INF (R40, R161). -/
theorem pathCost_lt_inf (h : CoreInv s) (hd : decoding s.phase = true) : s.nSteps.toNat * s.gNum < s.inf := by
  obtain ⟨h1, h2, h3⟩ := h.decodingSize hd
  have hl : s.params.lMax < s.inf := h.legal.2.2.2.2
  simp only [State.decodeTooLarge, decide_eq_false_iff_not, not_or, Nat.not_lt] at h2
  omega

end Sys2Proof.Laws
end

