-- ==== Sys2Proof/Tests/Slice0.lean ====
section
/-! SUPPORT. The model's own tests: well-formedness, command words written out bit by bit, single steps with results
taken from spec/95_test_vectors.md and the worked traces of R142, R167 and R190, and a witness for the hypotheses of
every statement. -/

namespace Sys2Proof.Tests

open Sys2Proof.Machine Sys2Proof.Safety

/-! ### Well-formedness -/

/-- Small parameters R6 admits: 2^5 - 1 > 16. -/
def small : Params := { kMax := 3, gMax := 2, lMax := 16, nMax := 8, costW := 5 }

theorem test_wf_commands :
    Instr.wellFormed .configure = true ∧ Instr.wellFormed .encode = true ∧ Instr.wellFormed .decode = true := by decide

theorem test_wf_params : small.legal ∧ Params.widest.legal := by decide

/-- R6: each bound refuses a value just outside it. -/
theorem test_illFormed_kMax : ¬ { small with kMax := 0 }.legal ∧ ¬ { small with kMax := 33 }.legal := by decide

theorem test_illFormed_gMax : ¬ { small with gMax := 0 }.legal ∧ ¬ { small with gMax := 257 }.legal := by decide

theorem test_illFormed_lMax :
    ¬ { small with lMax := 0 }.legal ∧ ¬ { small with lMax := 2 ^ 28 + 1, costW := 40 }.legal := by decide

theorem test_illFormed_nMax : ¬ { small with nMax := 0 }.legal ∧ ¬ { small with nMax := 17 }.legal := by decide

theorem test_illFormed_costW : ¬ { small with costW := 4 }.legal := by decide

/-! ### Command words, written out from R92 and R93: RSVD in bits 31 to 4, OP in bits 3 to 0 -/

theorem test_decode_configure :
    decodeWord 0b0000_0000_0000_0000_0000_0000_0000_0001#32 = .ok .configure := by decide

theorem test_decode_encode :
    decodeWord 0b0000_0000_0000_0000_0000_0000_0000_0010#32 = .ok .encode := by decide

theorem test_decode_decode :
    decodeWord 0b0000_0000_0000_0000_0000_0000_0000_0011#32 = .ok .decode := by decide

/-- R94: OP 0x0, 0x4 and 0xF are reserved. -/
theorem test_decode_reservedOp :
    decodeWord 0b0000_0000_0000_0000_0000_0000_0000_0000#32 = .error (.reservedOp 0x0#4) ∧
    decodeWord 0b0000_0000_0000_0000_0000_0000_0000_0100#32 = .error (.reservedOp 0x4#4) ∧
    decodeWord 0b0000_0000_0000_0000_0000_0000_0000_1111#32 = .error (.reservedOp 0xF#4) := by decide

/-- R94: RSVD not 0 is illegal whatever OP is: 0x11 and 0x80000002. -/
theorem test_decode_reservedBits :
    decodeWord 0b0000_0000_0000_0000_0000_0000_0001_0001#32 = .error (.reservedBits 1#28) ∧
    decodeWord 0b1000_0000_0000_0000_0000_0000_0000_0010#32 = .error (.reservedBits 0x8000000#28) := by decide

theorem test_encode_words :
    encode .configure = 0x00000001#32 ∧ encode .encode = 0x00000002#32 ∧ encode .decode = 0x00000003#32 := by decide

/-! ### States: the code of R142 and R167, K = 3, GEN = [7, 5], under the small parameters -/

/-- After reset, the host has staged K_IN = 3, G_IN = 2, GEN_IN = [7, 5]. -/
def staged : State := { State.resetWith small 0 with kIn := 3, gIn := 2, genIn := [7, 5] }

/-- That configuration is active. -/
def active : State := { staged with k := 3, g := 2, gen := [7, 5], configured := true }

/-- A command is in progress in phase `p`. -/
def running (s : State) (w : Word) (p : Phase) : State :=
  { s with opc := w, busy := true, phase := p, pollDue := true }

/-- IN_MEM = [1, 0, 1], IN_LEN = 3. -/
def loaded3 : State := { active with inMem := [(0, 1), (1, 0), (2, 1)], inLen := 3 }

/-- IN_MEM = [1, 1, 1, 0], IN_LEN = 4: the first two groups of V1.2. -/
def loaded4 : State := { active with inMem := [(0, 1), (1, 1), (2, 1), (3, 0)], inLen := 4 }

/-- CHECK of each command. -/
def checkConfigure : State := running staged 1 .check
def checkEncode : State := running loaded3 2 .check
def checkDecode : State := running loaded4 3 .check

/-- A command has completed and the host has not read STATUS yet: R234's window is still open. -/
def unread : State := { active with pollDue := true }

/-- CFG_COMMIT. -/
def committing : State := running staged 1 .cfgCommit

/-- ENC_STEP at `I = i` with ENC_STATE = `e`. -/
def encoding (i : Word) (e : Nat) : State := { running loaded3 2 .encStep with iIdx := i, encState := e }

/-- DEC_INIT with `N = 2`. -/
def initialising : State := { running loaded4 3 .decInit with nSteps := 2 }

/-- What `x` answers with is a next state that meets `p`. -/
def answers (x : Host.Outcome State Fault Refusal) (p : State → Bool) : Bool :=
  match x with
  | .next t => p t
  | .fault _ => false
  | .refused _ => false

/-! ### Single steps -/

/-- Vector C-5: CTRL_IN = 0xFFFFFFFF stores 1, and the commit copies K, G, CTRL and GEN. -/
theorem test_configure_commit :
    answers (exec .configure { committing with ctrlIn := bit0Word 0xFFFFFFFF }) (fun t =>
      t.k = 3 ∧ t.g = 2 ∧ t.ctrl = 1 ∧ t.gen = [7, 5] ∧ t.statusWord = 0x00000001) = true := by decide

/-- Vector C-10 with K_MAX = 3: K_IN = 33 and G_IN = 0 is INVALID_CONFIGURATION, before CAPACITY. -/
theorem test_configure_invalid_first :
    answers (exec .configure { checkConfigure with kIn := 33, gIn := 0 }) (fun t => t.statusWord = 0x00000010) = true := by
  decide

/-- R142, step 0: state 00, input 1, combined 001, outputs 1 1, next state 01. -/
theorem test_encode_first_bit :
    answers (exec .encode (encoding 0 0)) (fun t =>
      t.outMem = [(0, 1), (1, 1)] ∧ t.encState = 0b01 ∧ t.iIdx = 1) = true := by decide

/-- R142, step 2: state 10, input 1, combined 101, outputs 0 0, next state 01; the group goes to OUT_MEM[4..5]. -/
theorem test_encode_third_bit :
    answers (exec .encode (encoding 2 0b10)) (fun t =>
      t.outMem = [(4, 0), (5, 0)] ∧ t.encState = 0b01 ∧ t.iIdx = 3) = true := by decide

/-- R167 with column 1 filled: COST[1] = [2, 0, INF, INF]; the second input group is [1, 0], as in V1.2. -/
def column2 : State :=
  { running loaded4 3 .decAcs with
    nSteps := 2
    t := 1
    si := 1
    cost := [(0, 0), (1, 31), (2, 31), (3, 31), (4, 2), (5, 0), (6, 31), (7, 31), (8, 3), (9, 3), (10, 31), (11, 31)] }

/-- R167, row t = 2, state 2: cost 0, entry (1, 0), from state 1 by bit 0. -/
theorem test_decode_acs :
    answers (exec .decode column2) (fun t =>
      t.costAt 2 2 = 0 ∧ t.bpAt 2 2 = ⟨true, 1, 0⟩ ∧ t.b = 1 ∧ t.si = 1) = true := by decide

/-- The forward pass of one step, K = 2, G = 1, GEN = [3], input [1]: from state 0, bit 0 expects 0 and costs 1, bit 1
expects 1 and costs 0. Traceback then holds state 1 and decides 1. -/
def tracing : State :=
  { running { active with k := 2, g := 1, gen := [3, 0], inMem := [(0, 1)], inLen := 1 } 3 .decTb with
    nSteps := 1
    t := 1
    fst := 1
    cost := [(0, 0), (1, 31), (2, 1), (3, 0)]
    bp := [(0, ⟨false, 0, 0⟩), (1, ⟨false, 0, 0⟩), (2, ⟨true, 0, 0⟩), (3, ⟨true, 0, 1⟩)] }

/-- R183, R184: the decision bit goes to OUT_MEM[T-1], FST to the predecessor. -/
theorem test_decode_traceback :
    answers (exec .decode tracing) (fun t => t.outMem = [(0, 1)] ∧ t.fst = 0 ∧ t.t = 0) = true := by decide

/-- The same trellis before its only column is filled: `T = 0`. -/
def forward : State :=
  { tracing with
    phase := .decAcs
    t := 0
    fst := 0
    cost := [(0, 0), (1, 31), (2, 31), (3, 31)]
    bp := [(0, ⟨false, 0, 0⟩), (1, ⟨false, 0, 0⟩), (2, ⟨false, 0, 0⟩), (3, ⟨false, 0, 0⟩)] }

/-- The same trellis with its column filled, before the terminal state is chosen. -/
def selecting : State := { tracing with phase := .decSel, fst := 0 }

/-- The decision is made: `T = 0`. -/
def traced : State := { tracing with t := 0, fst := 0, outMem := [(0, 1)] }

/-- R21, R26, R63, R64, R234: after completion, before STATUS is read with BUSY = 0, a read of OUT_LEN returns it and a
CMD write is accepted, and each records the hazard; outside the window neither does. -/
theorem test_unread_recorded :
    answers (hostRead 0x00000006 unread) (fun t => t.reads = [0] ∧ t.hazard = true) = true ∧
    answers (hostWrite 0x00000000 2 unread) (fun t => t.opc = 2 ∧ t.busy = true ∧ t.hazard = true) = true ∧
    answers (hostRead 0x00000006 active) (fun t => t.reads = [0] ∧ t.hazard = false) = true := by decide

/-- R220 (d), H-13: while BUSY = 1 a read of OUT_LEN and a second CMD write fault. -/
theorem test_busy_faults :
    hostRead 0x00000006 checkEncode = .fault .busyHazard ∧ hostWrite 0x00000000 1 checkEncode = .fault .busyHazard :=
  ⟨rfl, rfl⟩

/-- R234, R95: the STATUS read that returns BUSY = 0 (here 0x00000001) closes the window; one with BUSY = 1 does not. -/
theorem test_status_closes_window :
    answers (hostRead 0x00000001 unread) (fun t => t.pollWindow = false ∧ t.reads = [0x00000001]) = true ∧
    answers (hostRead 0x00000001 checkEncode) (fun t => t.pollWindow = true ∧ t.reads = [0x00000003]) = true := by
  decide

/-- R243: the run is over once no host turn is left and PHASE is IDLE, not while a command is in progress or a
transaction is left. -/
theorem test_run_over :
    active.runOver = true ∧ { active with schedule := [.engine] }.runOver = true ∧ committing.runOver = false ∧
    { active with schedule := [.host (.read 1)] }.runOver = false := by decide

/-! ### The host's two questions -/

/-- From reset, ENCODE with nothing configured is NOT_CONFIGURED: STATUS = 0x30 (R131, R95). -/
theorem test_withFetchWord :
    decodeTableWord 32 0b10 = some .encode ∧
    answers (step (State.reset.withFetchWord 32 0b10)) (fun t => t.statusWord = 0x00000030) = true := by decide

/-! ### The invariants at these states -/

/-- The clauses of `TrellisInv` over the finitely many cells they speak of. -/
def cellOk (s : State) (t st : Nat) : Bool :=
  decide (s.costAt t st ≤ t * s.gNum) && (decide (t ≠ 0) || decide (st = 0)) &&
  (decide (t = 0) ||
    ((s.bpAt t st).valid && decide ((s.bpAt t st).pred < s.stateCount) &&
      decide (s.costAt (t - 1) (s.bpAt t st).pred ≠ s.inf) &&
      decide (s.nextState (shiftIn (s.bpAt t st).pred (s.bpAt t st).dec) = st)))

theorem cellSound_of_cellOk {s : State} {t st : Nat} (h : cellOk s t st = true) : CellSound s t st := by
  simp only [cellOk, Bool.and_eq_true, Bool.or_eq_true, decide_eq_true_eq] at h
  obtain ⟨⟨h1, h2⟩, h3⟩ := h
  refine ⟨h1, fun e => h2.resolve_left fun n => n e, fun t' e => ?_⟩
  obtain ⟨⟨⟨a, b⟩, c⟩, d⟩ := h3.resolve_left (by omega)
  subst e
  exact ⟨a, b, c, d⟩

/-- A trellis whose cells the finite checks accept meets the soundness clause. -/
theorem sound_of_cellOk {s : State}
    (h : ∀ t ∈ List.range (s.nSteps.toNat + 1), ∀ st ∈ List.range s.stateCount,
      s.costAt t st ≠ s.inf → cellOk s t st = true) :
    ∀ t st, t ≤ s.nSteps.toNat → st < s.stateCount → Reachable s t st → CellSound s t st :=
  fun t st h1 h2 h3 =>
    cellSound_of_cellOk (h t (List.mem_range.2 (by omega)) st (List.mem_range.2 h2) h3)

theorem coreInv_idle : CoreInv active := by
  constructor
  case phaseWord => intro i; cases i <;> decide
  all_goals decide

theorem coreInv_unread : CoreInv unread := by
  constructor
  case phaseWord => intro i; cases i <;> decide
  all_goals decide

theorem coreInv_staged : CoreInv staged := by
  constructor
  case phaseWord => intro i; cases i <;> decide
  all_goals decide

theorem coreInv_checkEncode : CoreInv checkEncode := by
  constructor
  case phaseWord => intro i; cases i <;> decide
  all_goals decide

theorem coreInv_encoding : CoreInv (encoding 2 0b10) := by
  constructor
  case phaseWord => intro i; cases i <;> decide
  all_goals decide

theorem coreInv_checkDecode : CoreInv checkDecode := by
  constructor
  case phaseWord => intro i; cases i <;> decide
  all_goals decide

theorem coreInv_forward : CoreInv forward := by
  constructor
  case phaseWord => intro i; cases i <;> decide
  all_goals decide

theorem coreInv_selecting : CoreInv selecting := by
  constructor
  case phaseWord => intro i; cases i <;> decide
  all_goals decide

theorem coreInv_tracing : CoreInv tracing := by
  constructor
  case phaseWord => intro i; cases i <;> decide
  all_goals decide

theorem coreInv_traced : CoreInv traced := by
  constructor
  case phaseWord => intro i; cases i <;> decide
  all_goals decide

theorem coreInv_inputMissing : CoreInv { encoding 2 0b10 with inMem := [] } := by
  constructor
  case phaseWord => intro i; cases i <;> decide
  all_goals decide

/-- The invariants say nothing of the HOST agent's schedule. -/
theorem coreInv_schedule {s : State} (l : List Turn) (h : CoreInv s) : CoreInv { s with schedule := l } := by
  cases h; constructor <;> assumption

theorem trellisInv_vacuous {s : State} (h1 : s.phase ≠ .decAcs) (h2 : s.phase ≠ .decSel) (h3 : s.phase ≠ .decTb) :
    TrellisInv s := by
  constructor <;> intro h <;> simp_all

theorem trellisInv_tracing : TrellisInv tracing where
  sound := fun _ => sound_of_cellOk (by decide)
  finished := fun h => by cases h
  filling := fun h => by cases h
  untouched := fun h => by cases h
  selected := fun h => by cases h
  held := fun _ => ⟨by decide, show tracing.costAt 1 1 ≠ tracing.inf by decide⟩

theorem trellisInv_traced : TrellisInv traced where
  sound := fun _ => sound_of_cellOk (by decide)
  finished := fun h => by cases h
  filling := fun h => by cases h
  untouched := fun h => by cases h
  selected := fun h => by cases h
  held := fun _ => ⟨by decide, show traced.costAt 0 0 ≠ traced.inf by decide⟩

theorem trellisInv_selecting : TrellisInv selecting where
  sound := fun _ => sound_of_cellOk (by decide)
  finished := fun h => by cases h
  filling := fun h => by cases h
  untouched := fun h => by cases h
  selected := fun _ t st h1 h2 => by
    have : ∀ t ∈ List.range 2, ∀ st ∈ List.range 2,
        (selecting.costAt t st ≠ selecting.inf ↔ st < 2 ^ min t (selecting.kNum - 1)) := by decide
    have h1 : t < 2 := Nat.lt_succ_of_le h1
    exact this t (List.mem_range.2 h1) st (List.mem_range.2 h2)
  held := fun h => by cases h

theorem trellisInv_forward : TrellisInv forward where
  sound := fun _ => sound_of_cellOk (by decide)
  finished := fun _ t st h1 h2 => by
    have : ∀ st ∈ List.range 2, (forward.costAt 0 st ≠ forward.inf ↔ st < 2 ^ min 0 (forward.kNum - 1)) := by decide
    obtain rfl := Nat.le_zero.1 h1
    exact this st (List.mem_range.2 h2)
  filling := fun _ st h2 => by
    have : ∀ st ∈ List.range 2, forward.costAt 1 st = forward.inf := by decide
    exact ⟨fun h => absurd (this st (List.mem_range.2 h2)) h, fun ⟨c, h, _⟩ => absurd h (Nat.not_lt_zero c)⟩
  untouched := fun _ t st h1 h2 => by
    have h1 : 1 < t := h1
    have h2 : t ≤ 1 := h2
    omega
  selected := fun h => by cases h
  held := fun h => by cases h

theorem trellisInv_forwardMissing : TrellisInv { forward with inMem := [] } where
  sound := fun _ => sound_of_cellOk (by decide)
  finished := fun _ t st h1 h2 => by
    have : ∀ st ∈ List.range 2, (forward.costAt 0 st ≠ forward.inf ↔ st < 2 ^ min 0 (forward.kNum - 1)) := by decide
    obtain rfl := Nat.le_zero.1 h1
    exact this st (List.mem_range.2 h2)
  filling := fun _ st h2 => by
    have : ∀ st ∈ List.range 2, forward.costAt 1 st = forward.inf := by decide
    exact ⟨fun h => absurd (this st (List.mem_range.2 h2)) h, fun ⟨c, h, _⟩ => absurd h (Nat.not_lt_zero c)⟩
  untouched := fun _ t st h1 h2 => by
    have h1 : 1 < t := h1
    have h2 : t ≤ 1 := h2
    omega
  selected := fun h => by cases h
  held := fun h => by cases h

theorem coreInv_forwardMissing : CoreInv { forward with inMem := [] } := by
  constructor
  case phaseWord => intro i; cases i <;> decide
  all_goals decide

/-! ### Witnesses: states and operands that meet the hypotheses of each statement -/

theorem witness_CommandWords : (0#32 ≠ 1#32 ∧ 0#32 ≠ 2#32 ∧ 0#32 ≠ 3#32) ∧ (4#32 ≠ 1#32 ∧ 4#32 ≠ 2#32 ∧ 4#32 ≠ 3#32) := by
  decide

theorem witness_ReservedWordsNamed :
    (16 ≤ (16#32).toNat ∧ 16 ≤ (0xFFFFFFFF#32).toNat) ∧
    ((0#32).toNat < 16 ∧ (0#32).toNat = 0) ∧ ((4#32).toNat < 16 ∧ 4 ≤ (4#32).toNat) ∧
    ((15#32).toNat < 16 ∧ 4 ≤ (15#32).toNat) := by decide

theorem witness_EncodeDecodeAgree : Instr.wellFormed .decode = true := by decide

theorem witness_StepRunsDecodedCommand :
    (EngineTurn checkEncode ∧ checkEncode.phase = .check ∧ decodeWord checkEncode.opc = .ok .encode) ∧
    (EngineTurn committing ∧ phaseCommand committing.phase = some .configure) ∧
    (EngineTurn (encoding 0 0) ∧ phaseCommand (encoding 0 0).phase = some .encode) ∧
    (EngineTurn tracing ∧ phaseCommand tracing.phase = some .decode) ∧
    (EngineTurn { active with schedule := [.engine, .engine] } ∧ active.phase = .idle) :=
  ⟨⟨.inl rfl, rfl, by decide⟩, ⟨.inl rfl, rfl⟩, ⟨.inl rfl, rfl⟩, ⟨.inl rfl, rfl⟩, ⟨.inr rfl, rfl⟩⟩

theorem witness_IllegalWordReports :
    EngineTurn (running active 0x11 .check) ∧ (running active 0x11 .check).phase = .check ∧
    (running active 0x11 .check).opc ≠ 1 ∧ (running active 0x11 .check).opc ≠ 2 ∧
    (running active 0x11 .check).opc ≠ 3 := ⟨.inl rfl, by decide⟩

theorem witness_CommandAccepted : active.busy = false ∧ unread.busy = false ∧ active.phase = .idle := by decide

theorem witness_ConfigureInvalid :
    checkConfigure.phase = .check ∧
    { checkConfigure with kIn := 0xFFFFFFFF }.stagedInvalid = true ∧ { checkConfigure with kIn := 0 }.stagedInvalid = true ∧
    { checkConfigure with gIn := 0 }.stagedInvalid = true ∧ { checkConfigure with kIn := 1 }.stagedInvalid = false := by
  decide

theorem witness_ConfigureOverCapacity :
    checkConfigure.phase = .check ∧ ¬ (checkConfigure.kIn.toInt ≤ 0 ∨ checkConfigure.gIn = 0) ∧
    { checkConfigure with kIn := 4 }.stagedTooLarge = true ∧ { checkConfigure with gIn := 3 }.stagedTooLarge = true := by
  decide

theorem witness_ConfigurePassesChecks :
    checkConfigure.phase = .check ∧ 0 < checkConfigure.kIn.toInt ∧
    checkConfigure.kIn.toInt ≤ checkConfigure.params.kMax ∧ checkConfigure.gIn ≠ 0 ∧
    checkConfigure.gIn.toNat ≤ checkConfigure.params.gMax := by decide

theorem witness_ConfigureCommits : committing.phase = .cfgCommit := by decide

theorem witness_ConfigureRuns :
    staged.busy = false ∧ 0 < staged.kIn.toInt ∧ staged.kIn.toInt ≤ staged.params.kMax ∧ staged.gIn ≠ 0 ∧
    staged.gIn.toNat ≤ staged.params.gMax := by decide

theorem witness_ConfigureFrame :
    (∃ t, exec .configure checkConfigure = .next t) ∧ (∃ t, exec .configure committing = .next t) ∧
    ∃ t, exec .configure staged = .next t := ⟨⟨_, rfl⟩, ⟨_, rfl⟩, ⟨_, rfl⟩⟩

theorem witness_ActiveConfigurationImmutable :
    (∃ t, step committing = .next t) ∧ (∃ t, step { active with schedule := [.host .reset] } = .next t) ∧
    ∃ t, step { active with schedule := [.host (.write 2 9)] } = .next t := ⟨⟨_, rfl⟩, ⟨_, rfl⟩, ⟨_, rfl⟩⟩

theorem witness_ConfiguredWriters :
    (∃ t, step committing = .next t ∧ t.configured ≠ committing.configured) ∧
    (∃ t, step { active with schedule := [.host .reset] } = .next t ∧ t.configured ≠ active.configured) ∧
    (checkConfigure.phase = .check ∧ checkConfigure.configured = false) :=
  ⟨⟨_, rfl, by decide⟩, ⟨_, rfl, by decide⟩, by decide⟩

/-- IN_LEN * G = 16 = L_MAX fits, 18 does not. -/
theorem witness_EncodeChecks :
    checkEncode.phase = .check ∧ checkEncode.configured = true ∧ { checkEncode with configured := false }.configured = false ∧
    { checkEncode with inLen := 8 }.encodeTooLarge = false ∧ { checkEncode with inLen := 9 }.encodeTooLarge = true ∧
    1 ≤ checkEncode.g.toNat := by decide

theorem witness_EncodeStartsFromZero :
    checkEncode.phase = .check ∧ checkEncode.configured = true ∧
    checkEncode.inLen.toNat * checkEncode.g.toNat ≤ checkEncode.params.lMax := by decide

theorem witness_EncodeStepShifts :
    (encoding 2 0b10).phase = .encStep ∧ (encoding 2 0b10).iIdx ≠ (encoding 2 0b10).inLen ∧
    Memory.read (encoding 2 0b10).inMem (encoding 2 0b10).iIdx.toNat = some 1 := by decide

/-- ENCODE at element 3 of 4, of which three hold a value; DECODE at a reachable state, its only element missing. -/
theorem witness_EncodeInputMustHold :
    (let s := { encoding 3 0 with inLen := 4 }
     s.phase = .encStep ∧ s.iIdx ≠ s.inLen ∧ Memory.read s.inMem s.iIdx.toNat = none) ∧
    (let s := { forward with inMem := [] }
     s.phase = .decAcs ∧ s.costAt s.t.toNat s.si ≠ s.inf ∧
      ∃ j, j < s.gNum ∧ Memory.read s.inMem (s.t.toNat * s.gNum + j) = none) :=
  ⟨by decide, by decide, by decide, 0, by decide⟩

theorem witness_EncodeCompletes :
    (encoding 3 1).phase = .encStep ∧ (encoding 3 1).iIdx = (encoding 3 1).inLen ∧
    (encoding 3 1).inLen.toNat * (encoding 3 1).g.toNat < 2 ^ 32 := by decide

/-- The input sequence of `loaded3`. -/
def bits3 (i : Nat) : Bit := if i = 1 then 0 else 1

/-- The input sequence of `loaded4`. -/
def bits4 (i : Nat) : Bit := if i = 3 then 0 else 1

theorem holds_of_range {m : Memory Bit} {x : Nat → Bit} {n : Nat}
    (h : ∀ i ∈ List.range n, Memory.read m i = some (x i)) : Holds m x n :=
  fun i hi => h i (List.mem_range.2 hi)

theorem witness_EncodeRuns :
    CoreInv checkEncode ∧ checkEncode.phase = .check ∧ checkEncode.opc = 2 ∧ checkEncode.configured = true ∧
    checkEncode.inLen.toNat * checkEncode.g.toNat ≤ checkEncode.params.lMax ∧
    Holds checkEncode.inMem bits3 checkEncode.inLen.toNat :=
  ⟨coreInv_checkEncode, by decide, by decide, by decide, by decide, holds_of_range (by decide)⟩

theorem witness_EncodeEmptyInput :
    { checkEncode with inLen := 0 }.phase = .check ∧ { checkEncode with inLen := 0 }.opc = 2 ∧
    { checkEncode with inLen := 0 }.configured = true ∧ { checkEncode with inLen := 0 }.inLen = 0 := by decide

theorem witness_EncodeFrame :
    (∃ t, exec .encode checkEncode = .next t) ∧ (∃ t, exec .encode (encoding 0 0) = .next t) ∧
    ∃ t, exec .encode (encoding 3 1) = .next t := ⟨⟨_, rfl⟩, ⟨_, rfl⟩, ⟨_, rfl⟩⟩

/-- IN_LEN div G = 8 = N_MAX and IN_LEN = 16 = L_MAX fit; 18 does not. -/
theorem witness_DecodeChecks :
    checkDecode.phase = .check ∧ checkDecode.configured = true ∧
    { checkDecode with inLen := 3 }.lengthInvalid = true ∧ checkDecode.lengthInvalid = false ∧
    { checkDecode with inLen := 16 }.decodeTooLarge = false ∧ { checkDecode with inLen := 18 }.decodeTooLarge = true ∧
    checkConfigure.configured = false := by decide

theorem witness_DecodePassesChecks :
    checkDecode.phase = .check ∧ checkDecode.configured = true ∧ checkDecode.inLen.toNat % checkDecode.g.toNat = 0 ∧
    checkDecode.inLen.toNat ≤ checkDecode.params.lMax ∧
    checkDecode.inLen.toNat / checkDecode.g.toNat ≤ checkDecode.params.nMax := by decide

theorem witness_DecodeInitialises : initialising.phase = .decInit ∧ initialising.nSteps ≠ 0 := by decide

theorem witness_DecodeEmptyInput :
    { checkDecode with inLen := 0 }.phase = .check ∧ { checkDecode with inLen := 0 }.opc = 3 ∧
    { checkDecode with inLen := 0 }.configured = true ∧ { checkDecode with inLen := 0 }.inLen = 0 := by decide

/-- State 1 is unreachable at time 0. -/
theorem witness_UnreachableStateSkipped :
    { forward with si := 1 }.phase = .decAcs ∧ { forward with si := 1 }.costAt 0 1 = { forward with si := 1 }.inf := by
  decide

theorem witness_AddCompareSelect :
    forward.phase = .decAcs ∧ forward.costAt forward.t.toNat forward.si ≠ forward.inf ∧
    ∀ j, j < forward.gNum → Memory.read forward.inMem (forward.t.toNat * forward.gNum + j) =
      some ((fun _ => 1) (forward.t.toNat * forward.gNum + j)) :=
  ⟨by decide, by decide, fun j h =>
    (by decide : ∀ j ∈ List.range 1, Memory.read forward.inMem (0 * 1 + j) = some 1) j (List.mem_range.2 h)⟩

/-- One state for each clause: S = 2. -/
theorem witness_CandidateOrder :
    (∃ t, exec .decode forward = .next t ∧ forward.b = 0 ∧ forward.si < forward.stateCount) ∧
    (∃ t, exec .decode { forward with b := 1 } = .next t ∧ forward.si + 1 < forward.stateCount) ∧
    ∃ t, exec .decode { forward with b := 1, si := 1 } = .next t ∧ 1 + 1 = forward.stateCount :=
  ⟨⟨_, rfl, by decide⟩, ⟨_, rfl, by decide⟩, ⟨_, rfl, by decide⟩⟩

theorem witness_PredecessorStructure :
    (3 < active.stateCount ∧ 2 ≤ active.k.toNat) ∧
    (0 < { active with k := 1 }.stateCount ∧ { active with k := 1 }.k.toNat = 1) := by decide

theorem witness_ForwardColumn :
    CoreInv forward ∧ TrellisInv forward ∧ forward.phase = .decAcs ∧ forward.si = 0 ∧ forward.b = 0 ∧
    (∀ st, st < forward.stateCount → (forward.bpAt (forward.t.toNat + 1) st).valid = false) ∧
    Holds forward.inMem (fun _ => 1) forward.inLen.toNat :=
  ⟨coreInv_forward, trellisInv_forward, by decide, by decide, by decide,
    fun st h => (by decide : ∀ st ∈ List.range 2, (forward.bpAt 1 st).valid = false) st (List.mem_range.2 h),
    holds_of_range (by decide)⟩

theorem coreInv_selectingZero : CoreInv { selecting with ctrl := 1 } := by
  constructor
  case phaseWord => intro i; cases i <;> decide
  all_goals decide

theorem trellisInv_selectingZero : TrellisInv { selecting with ctrl := 1 } where
  sound := fun _ => sound_of_cellOk (by decide)
  finished := fun h => by cases h
  filling := fun h => by cases h
  untouched := fun h => by cases h
  selected := trellisInv_selecting.selected
  held := fun h => by cases h

theorem witness_MinCostTerminal :
    selecting.phase = .decSel ∧ selecting.ctrl.getLsbD 0 = false ∧ CoreInv selecting ∧ TrellisInv selecting :=
  ⟨by decide, by decide, coreInv_selecting, trellisInv_selecting⟩

theorem witness_ZeroStateTerminal :
    { selecting with ctrl := 1 }.phase = .decSel ∧ { selecting with ctrl := 1 }.ctrl.getLsbD 0 = true ∧
    CoreInv { selecting with ctrl := 1 } ∧ TrellisInv { selecting with ctrl := 1 } :=
  ⟨by decide, by decide, coreInv_selectingZero, trellisInv_selectingZero⟩

theorem witness_TracebackStep :
    tracing.phase = .decTb ∧ tracing.t ≠ 0 ∧ (tracing.bpAt tracing.t.toNat tracing.fst).valid = true := by decide

theorem witness_DecisionBitIsLowBit :
    CoreInv tracing ∧ TrellisInv tracing ∧ tracing.phase = .decTb ∧ tracing.t ≠ 0 ∧ 2 ≤ tracing.k.toNat :=
  ⟨coreInv_tracing, trellisInv_tracing, by decide, by decide, by decide⟩

theorem witness_InvalidBackPointerFaults :
    { tracing with bp := forward.bp }.phase = .decTb ∧ { tracing with bp := forward.bp }.t ≠ 0 ∧
    ({ tracing with bp := forward.bp }.bpAt 1 1).valid = false := by decide

theorem witness_DecodeCompletes : traced.phase = .decTb ∧ traced.t = 0 ∧ CoreInv traced ∧ TrellisInv traced :=
  ⟨by decide, by decide, coreInv_traced, trellisInv_traced⟩

theorem witness_DecodeRuns :
    CoreInv checkDecode ∧ checkDecode.phase = .check ∧ checkDecode.opc = 3 ∧ checkDecode.configured = true ∧
    checkDecode.inLen.toNat % checkDecode.g.toNat = 0 ∧ checkDecode.inLen.toNat ≤ checkDecode.params.lMax ∧
    checkDecode.inLen.toNat / checkDecode.g.toNat ≤ checkDecode.params.nMax ∧ 1 ≤ checkDecode.inLen.toNat ∧
    Holds checkDecode.inMem bits4 checkDecode.inLen.toNat :=
  ⟨coreInv_checkDecode, by decide, by decide, by decide, by decide, by decide, by decide, by decide,
    holds_of_range (by decide)⟩

/-- The K = 2, G = 1 code of `tracing`, at CHECK, with the input [1]: five steps later than its DEC_INIT it is at
traceback, and it ends with [1] in OUT_MEM. -/
def checkOne : State := { running { active with k := 2, g := 1, gen := [3, 0], inMem := [(0, 1)], inLen := 1 } 3 .check with
  cost := [], bp := [] }

theorem coreInv_checkOne : CoreInv checkOne := by
  constructor
  case phaseWord => intro i; cases i <;> decide
  all_goals decide

theorem witness_DecodeIsMaximumLikelihood :
    CoreInv checkOne ∧ checkOne.phase = .check ∧ checkOne.opc = 3 ∧ checkOne.configured = true ∧
    checkOne.ctrl.getLsbD 0 = false ∧ checkOne.inLen.toNat % checkOne.g.toNat = 0 ∧
    checkOne.inLen.toNat ≤ checkOne.params.lMax ∧ checkOne.inLen.toNat / checkOne.g.toNat ≤ checkOne.params.nMax ∧
    1 ≤ checkOne.inLen.toNat ∧ Holds checkOne.inMem (fun _ => 1) checkOne.inLen.toNat ∧
    ∃ t, engineRun 9 checkOne = .next t ∧ t.phase = .idle ∧
      Holds t.outMem (fun _ => 1) (checkOne.inLen.toNat / checkOne.g.toNat) :=
  ⟨coreInv_checkOne, by decide, by decide, by decide, by decide, by decide, by decide, by decide, by decide,
    holds_of_range (by decide), _, rfl, rfl, holds_of_range (n := 1) (by decide)⟩

theorem witness_RoundTrip :
    CoreInv checkOne ∧ checkOne.phase = .check ∧ checkOne.opc = 3 ∧ checkOne.configured = true ∧
    checkOne.ctrl.getLsbD 0 = false ∧ (∃ j, j < checkOne.g.toNat ∧ (checkOne.gen.getD j 0).getLsbD 0 = true) ∧
    checkOne.inLen.toNat % checkOne.g.toNat = 0 ∧ checkOne.inLen.toNat ≤ checkOne.params.lMax ∧
    checkOne.inLen.toNat / checkOne.g.toNat ≤ checkOne.params.nMax ∧ 1 ≤ checkOne.inLen.toNat ∧
    Holds checkOne.inMem (encodedAt checkOne fun _ => 1) checkOne.inLen.toNat ∧
    ∃ t, engineRun 9 checkOne = .next t ∧ t.phase = .idle :=
  ⟨coreInv_checkOne, by decide, by decide, by decide, by decide, ⟨0, by decide⟩, by decide, by decide, by decide,
    by decide, holds_of_range (by decide), _, rfl, rfl⟩

/-- One answer for each phase of DECODE. -/
theorem witness_DecodeFrame :
    (∃ t, exec .decode checkDecode = .next t) ∧ (∃ t, exec .decode initialising = .next t) ∧
    (∃ t, exec .decode forward = .next t) ∧ (∃ t, exec .decode selecting = .next t) ∧
    ∃ t, exec .decode tracing = .next t := ⟨⟨_, rfl⟩, ⟨_, rfl⟩, ⟨_, rfl⟩, ⟨_, rfl⟩, ⟨_, rfl⟩⟩

/-- A failing check, an illegal word, and a success. -/
theorem witness_FailedCommandOnlyReports :
    (let s := { checkDecode with inLen := 3 }
     EngineTurn s ∧ s.phase ≠ .idle ∧ s.phase = .check ∧ ∃ t, step s = .next t ∧ t.phase = .idle) ∧
    (let s := running active 0x11 .check
     EngineTurn s ∧ s.phase ≠ .idle ∧ s.phase = .check ∧ ∃ t, step s = .next t ∧ t.phase = .idle) ∧
    (let s := committing
     EngineTurn s ∧ s.phase ≠ .idle ∧ ∃ t, step s = .next t ∧ t.phase = .idle) :=
  ⟨⟨.inl rfl, by decide, by decide, _, rfl, rfl⟩, ⟨.inl rfl, by decide, by decide, _, rfl, rfl⟩,
    ⟨.inl rfl, by decide, _, rfl, rfl⟩⟩

theorem witness_CompletionSteps :
    (∃ t, step { unread with schedule := [.host (.read 6)] } = .next t ∧ unread.hazard = false ∧ t.hazard = true) ∧
    (∃ t, step { active with schedule := [.host (.write 0 2)] } = .next t ∧ active.busy = false ∧ t.busy = true) ∧
    (∃ t, step committing = .next t ∧ committing.busy = true ∧ t.busy = false) ∧
    (∃ t, step { checkDecode with inLen := 3 } = .next t ∧ t.err ≠ checkDecode.err) ∧
    (∃ t, step { active with schedule := [.host (.write 0 2)] } = .next t ∧ active.pollDue = false ∧ t.pollDue = true) ∧
    (∃ t, step { unread with schedule := [.host (.read 1)] } = .next t ∧ unread.pollDue = true ∧ t.pollDue = false) ∧
    ∃ t, step { checkEncode with schedule := [.host .reset] } = .next t ∧ t.pollDue = false :=
  ⟨⟨_, rfl, rfl, rfl⟩, ⟨_, rfl, rfl, rfl⟩, ⟨_, rfl, rfl, rfl⟩, ⟨_, rfl, by decide⟩, ⟨_, rfl, rfl, rfl⟩, ⟨_, rfl, rfl, rfl⟩, _, rfl, rfl⟩

/-- Clauses at the ends of their ranges: the last generator, the last element. -/
theorem witness_AddressMap :
    small.legal ∧ decodeAddr small 0x0000000A = some .ctrl ∧ 1 < small.gMax ∧ 15 < small.lMax := by decide

theorem witness_UnmappedAccessFaults :
    small.legal ∧ active.busy = false ∧ checkEncode.busy = true ∧
    ((0x00000007#32).toNat < 0x10000000 ∧ ¬ (0x00000007#32).toNat ≤ 0x006 ∧
      ¬ (0x008 ≤ (0x00000007#32).toNat ∧ (0x00000007#32).toNat ≤ 0x00A) ∧
      ¬ (0x100 ≤ (0x00000007#32).toNat ∧ (0x00000007#32).toNat < 0x100 + small.gMax) ∧
      ¬ (0x200 ≤ (0x00000007#32).toNat ∧ (0x00000007#32).toNat < 0x200 + small.gMax)) ∧
    (¬ (0x100 ≤ (0x00000102#32).toNat ∧ (0x00000102#32).toNat < 0x100 + small.gMax)) ∧
    (0x10000000 + small.lMax ≤ (0x10000010#32).toNat ∧ (0x10000010#32).toNat < 0x20000000) ∧
    0x20000000 + small.lMax ≤ (0x20000010#32).toNat ∧ 0x20000000 + small.lMax ≤ (0x30000000#32).toNat := by decide

/-- A command in progress, and a finished one whose STATUS the host has not read. -/
theorem witness_BusyAccessFaults :
    checkEncode.busy = true ∧ 0x00000000#32 ≠ 0x00000001#32 ∧ unread.busy = false ∧ unread.pollDue = true ∧
    (∃ t, hostWrite 0x00000000 1 unread = .next t) ∧ ∃ t, hostRead 0x00000006 unread = .next t :=
  ⟨rfl, by decide, rfl, rfl, ⟨_, rfl⟩, ⟨_, rfl⟩⟩

theorem witness_StagedRegistersHold : active.busy = false ∧ CoreInv active ∧ 1 < active.params.gMax :=
  ⟨by decide, coreInv_idle, by decide⟩

theorem witness_ReadOnlyWritesIgnored :
    active.params.legal ∧ active.busy = false ∧ 1 < active.params.gMax ∧ 15 < active.params.lMax ∧
    (0xFFFFFFFF#32).getLsbD 0 = (1#32).getLsbD 0 := by decide

theorem witness_InputBitMasked : active.params.legal ∧ active.busy = false ∧ 15 < active.params.lMax := by decide

theorem witness_ElementReads :
    loaded3.params.legal ∧ loaded3.busy = false ∧ 15 < loaded3.params.lMax ∧
    Memory.read loaded3.inMem 15 = none ∧ Memory.read loaded3.outMem 15 = none ∧
    Memory.read loaded3.inMem 2 = some 1 ∧ Memory.read { loaded3 with outMem := [(0, 1)] }.outMem 0 = some 1 := by decide

theorem witness_ReadsChangeNoCoreState :
    (∃ t, hostRead 0x00000001 checkEncode = .next t) ∧ (∃ t, hostRead 0x00000001 unread = .next t) ∧
    (∃ t, hostRead 0x00000006 unread = .next t) ∧ ∃ t, hostRead 0x10000002 loaded3 = .next t :=
  ⟨⟨_, rfl⟩, ⟨_, rfl⟩, ⟨_, rfl⟩, ⟨_, rfl⟩⟩

theorem witness_StatusWordLayout :
    (staged.err = .none ∧ staged.busy = false ∧ staged.configured = false) ∧
    (active.err = .none ∧ active.busy = false ∧ active.configured = true) ∧
    ({ active with err := .invalidInputLength }.err = .invalidInputLength) ∧
    ({ staged with err := .invalidConfiguration }.err = .invalidConfiguration) ∧
    (checkConfigure.err = .none ∧ checkConfigure.busy = true ∧ checkConfigure.configured = false) := by decide

/-- Two ENGINE turns with a STATUS poll before, between and after them; a run that is over, two states with one end
state, and a run that a command in progress keeps from its end. -/
theorem witness_PollsUnobserved :
    (let s := { checkConfigure with schedule := [.host (.read 1), .engine, .host (.read 1), .engine, .host (.read 1)] }
     (∀ turn ∈ s.schedule, PollOrEngine s turn) ∧
     ∃ t, engineRun (s.schedule.countP (· = .engine)) s = .next t) ∧
    (CoreInv active ∧ active.runOver = true) ∧ (CoreInv unread ∧ active.endState = unread.endState) ∧
    ∃ t, EndsIn committing t ∧ committing.runOver = false := by
  refine ⟨⟨fun turn h => ?_, _, rfl⟩, ⟨coreInv_idle, by decide⟩, ⟨coreInv_unread, by decide⟩,
    _, ⟨1, rfl, by decide⟩, by decide⟩
  simp only [List.mem_cons, List.not_mem_nil, or_false] at h
  rcases h with rfl | rfl | rfl | rfl | rfl
  exacts [.inr ⟨1, rfl, by decide⟩, .inl rfl, .inr ⟨1, rfl, by decide⟩, .inl rfl, .inr ⟨1, rfl, by decide⟩]

theorem witness_ResetEvent : { checkEncode with schedule := [.host .reset] }.schedule.head? = some (.host .reset) := by
  decide

theorem witness_ResetMeetsInvariants : small.legal ∧ Params.widest.legal := by decide

theorem witness_StepKeepsInv :
    (CoreInv checkEncode ∧ ∃ t, step checkEncode = .next t) ∧ (CoreInv forward ∧ ∃ t, step forward = .next t) ∧
    (let s := { unread with schedule := [.host (.read 6)] }
     CoreInv s ∧ ∃ t, step s = .next t) :=
  ⟨⟨coreInv_checkEncode, _, rfl⟩, ⟨coreInv_forward, _, rfl⟩, coreInv_schedule _ coreInv_unread, _, rfl⟩

theorem witness_StepKeepsTrellisInv :
    (CoreInv forward ∧ TrellisInv forward ∧ ∃ t, step forward = .next t) ∧
    (CoreInv selecting ∧ TrellisInv selecting ∧ ∃ t, step selecting = .next t) ∧
    (CoreInv tracing ∧ TrellisInv tracing ∧ ∃ t, step tracing = .next t) :=
  ⟨⟨coreInv_forward, trellisInv_forward, _, rfl⟩, ⟨coreInv_selecting, trellisInv_selecting, _, rfl⟩,
    ⟨coreInv_tracing, trellisInv_tracing, _, rfl⟩⟩

/-- One state for each cause: (a) a read of an element with no value, (b) an input with no value, (c) offset 7, (d) a
second CMD write and a read of OUT_LEN while BUSY = 1. -/
theorem witness_FaultCauses :
    (let s := { active with schedule := [.host (.read 0x10000000)] }
     CoreInv s ∧ TrellisInv s ∧ ∃ f, step s = .fault f) ∧
    (let s := { encoding 2 0b10 with inMem := [] }
     CoreInv s ∧ TrellisInv s ∧ ∃ f, step s = .fault f) ∧
    (let s := { active with schedule := [.host (.read 0x2000000F)] }
     CoreInv s ∧ TrellisInv s ∧ ∃ f, step s = .fault f) ∧
    (let s := { forward with inMem := [] }
     CoreInv s ∧ TrellisInv s ∧ ∃ f, step s = .fault f) ∧
    (let s := { active with schedule := [.host (.write 7 0)] }
     CoreInv s ∧ TrellisInv s ∧ ∃ f, step s = .fault f) ∧
    (let s := { active with schedule := [.host (.read 7)] }
     CoreInv s ∧ TrellisInv s ∧ ∃ f, step s = .fault f) ∧
    (let s := { checkEncode with schedule := [.host (.write 0 2)] }
     CoreInv s ∧ TrellisInv s ∧ ∃ f, step s = .fault f) ∧
    (let s := { checkEncode with schedule := [.host (.read 6)] }
     CoreInv s ∧ TrellisInv s ∧ ∃ f, step s = .fault f) :=
  ⟨⟨coreInv_schedule _ coreInv_idle, trellisInv_vacuous (by decide) (by decide) (by decide), _, rfl⟩,
    ⟨coreInv_inputMissing, trellisInv_vacuous (by decide) (by decide) (by decide), _, rfl⟩,
    ⟨coreInv_schedule _ coreInv_idle, trellisInv_vacuous (by decide) (by decide) (by decide), _, rfl⟩,
    ⟨coreInv_forwardMissing, trellisInv_forwardMissing, _, rfl⟩,
    ⟨coreInv_schedule _ coreInv_idle, trellisInv_vacuous (by decide) (by decide) (by decide), _, rfl⟩,
    ⟨coreInv_schedule _ coreInv_idle, trellisInv_vacuous (by decide) (by decide) (by decide), _, rfl⟩,
    ⟨coreInv_schedule _ coreInv_checkEncode, trellisInv_vacuous (by decide) (by decide) (by decide), _, rfl⟩,
    ⟨coreInv_schedule _ coreInv_checkEncode, trellisInv_vacuous (by decide) (by decide) (by decide), _, rfl⟩⟩

theorem witness_BitMemoryWriters :
    (let s := { active with schedule := [.host (.write 0x1000000F 1)] }
     CoreInv s ∧ ∃ t, step s = .next t ∧ Memory.read t.inMem 15 ≠ Memory.read s.inMem 15) ∧
    (CoreInv (encoding 2 0b10) ∧ ∃ t, step (encoding 2 0b10) = .next t ∧
      Memory.read t.outMem 5 ≠ Memory.read (encoding 2 0b10).outMem 5) ∧
    (CoreInv tracing ∧ ∃ t, step tracing = .next t ∧ Memory.read t.outMem 0 ≠ Memory.read tracing.outMem 0) :=
  ⟨⟨coreInv_schedule _ coreInv_idle, _, rfl, by decide⟩, ⟨coreInv_encoding, _, rfl, by decide⟩,
    ⟨coreInv_tracing, _, rfl, by decide⟩⟩

end Sys2Proof.Tests
end

section
/-! PROOFS. The machine's invariant (O56, O57): what it says in each phase, and that reset and every move of either agent
keep it. -/

namespace Sys2Proof.Proofs

open Sys2Proof.Machine Sys2Proof.Safety Sys2Proof.Laws

variable {s t : State}

/-! ### The invariant by phase -/

/-- The clauses of `CoreInv` that hold whatever the phase: sizes, widths, canonical memories and the active
configuration. -/
structure StoreInv (s : State) : Prop where
  legal : s.params.legal
  genInLength : s.genIn.length = s.params.gMax
  genLength : s.gen.length = s.params.gMax
  inMemForm : Memory.wf s.inMem ∧ ∀ x ∈ s.inMem, x.1 < s.params.lMax
  outMemForm : Memory.wf s.outMem ∧ ∀ x ∈ s.outMem, x.1 < s.params.lMax
  costForm : Memory.wf s.cost ∧
    ∀ x ∈ s.cost, x.1 < (s.params.nMax + 1) * 2 ^ (s.params.kMax - 1) ∧ x.2 ≤ s.inf
  bpForm : Memory.wf s.bp ∧
    ∀ x ∈ s.bp, x.1 < (s.params.nMax + 1) * 2 ^ (s.params.kMax - 1) ∧ x.2.pred < 2 ^ (s.params.kMax - 1)
  encWidth : s.encState < 2 ^ (s.params.kMax - 1)
  siWidth : s.si < 2 ^ (s.params.kMax - 1)
  fstWidth : s.fst < 2 ^ (s.params.kMax - 1)
  ctrlInReserved : s.ctrlIn.toNat ≤ 1
  ctrlReserved : s.ctrl.toNat ≤ 1
  configuredRange : s.configured = true →
    (1 ≤ s.kNum ∧ s.kNum ≤ s.params.kMax) ∧ (1 ≤ s.gNum ∧ s.gNum ≤ s.params.gMax)

/-- Command `i` is running, inside R234's window. -/
abbrev Running (s : State) (i : Instr) : Prop := s.busy = true ∧ s.pollDue = true ∧ s.opc = encode i

/-- What every phase of a DECODE past its checks relies on (R151, R152). -/
abbrev DecodeChecked (s : State) : Prop :=
  s.configured = true ∧ s.decodeTooLarge = false ∧ s.inLen.toNat = s.nSteps.toNat * s.gNum

/-- The clauses of `CoreInv` that depend on the phase, read off for each phase. -/
def PhaseInv (s : State) : Prop :=
  match s.phase with
  | .idle => s.busy = false
  | .check => s.busy = true ∧ s.pollDue = true
  | .cfgCommit => Running s .configure ∧ s.stagedInvalid = false ∧ s.stagedTooLarge = false
  | .encStep => Running s .encode ∧ s.configured = true ∧ s.encodeTooLarge = false ∧
      s.iIdx.toNat ≤ s.inLen.toNat ∧ s.encState < s.stateCount
  | .decInit => Running s .decode ∧ DecodeChecked s
  | .decAcs => Running s .decode ∧ DecodeChecked s ∧ s.t.toNat < s.nSteps.toNat ∧ s.si < s.stateCount
  | .decSel => Running s .decode ∧ DecodeChecked s ∧ 0 < s.nSteps.toNat
  | .decTb => Running s .decode ∧ DecodeChecked s ∧ s.t.toNat ≤ s.nSteps.toNat

theorem storeInv_of_coreInv (h : CoreInv s) : StoreInv s := { h with }

theorem phaseInv_of_coreInv (h : CoreInv s) : PhaseInv s := by
  have hbusy := h.busyPhase
  have hdue := h.busyDue
  have hword := h.phaseWord
  unfold PhaseInv
  cases hp : s.phase <;> simp only [hp, phaseCommand, ne_eq, reduceCtorEq, not_true, not_false_eq_true, iff_true,
    iff_false, Option.some.injEq, forall_eq'] at hbusy hword ⊢
  case idle => simpa using hbusy
  case check => exact ⟨hbusy, hdue hbusy⟩
  case cfgCommit => exact ⟨⟨hbusy, hdue hbusy, hword⟩, h.committing hp⟩
  case encStep => exact ⟨⟨hbusy, hdue hbusy, hword⟩, h.encoding hp⟩
  case decInit => exact ⟨⟨hbusy, hdue hbusy, hword⟩, h.decodingSize (by rw [hp]; rfl)⟩
  case decAcs => exact ⟨⟨hbusy, hdue hbusy, hword⟩, h.decodingSize (by rw [hp]; rfl), h.forward hp⟩
  case decSel => exact ⟨⟨hbusy, hdue hbusy, hword⟩, h.decodingSize (by rw [hp]; rfl), h.selecting hp⟩
  case decTb => exact ⟨⟨hbusy, hdue hbusy, hword⟩, h.decodingSize (by rw [hp]; rfl), h.tracing hp⟩

/-- The two parts make up the invariant: every clause about another phase is void. -/
theorem coreInv_of_parts (h : StoreInv s) (hph : PhaseInv s) : CoreInv s := by
  unfold PhaseInv at hph
  cases hp : s.phase <;> rw [hp] at hph <;>
    exact { h with
      busyPhase := by simp [hp, hph]
      busyDue := by simp [hph]
      phaseWord := by simp [hp, hph, phaseCommand]
      committing := by simp [hp, hph]
      encoding := by simp [hp, hph]
      decodingSize := by simp [hp, hph, decoding]
      forward := by simp [hp, hph]
      selecting := by simp [hp, hph]
      tracing := by simp [hp, hph] }

theorem phaseInv_of_idle (hp : s.phase = .idle) (hb : s.busy = false) : PhaseInv s := by
  unfold PhaseInv
  rw [hp]
  exact hb

/-- What the invariant says in a known phase, over a state whose phase is that constructor, so that it reduces to the
facts themselves. -/
theorem phaseInv_of_phase {p : Phase} (h : CoreInv s) (hp : s.phase = p) : PhaseInv { s with phase := p } :=
  hp ▸ phaseInv_of_coreInv h

theorem phase_idle_of_not_busy (h : CoreInv s) (hb : s.busy = false) : s.phase = .idle := by
  by_contra hp
  exact absurd (h.busyPhase.2 hp) (by simp [hb])

/-! ### Canonical memories with a property of every listed element -/

theorem memoryForm_write {α : Type} {m : Memory α} {P : Nat × α → Prop} {i : Nat} {v : α}
    (h : Memory.wf m ∧ ∀ x ∈ m, P x) (hv : P (i, v)) :
    Memory.wf (Memory.write m i v) ∧ ∀ x ∈ Memory.write m i v, P x := by
  refine ⟨Memory_write_wf i v h.1, fun x hx => ?_⟩
  rcases Memory_mem_write hx with rfl | hx
  · exact hv
  · exact h.2 x hx

theorem memoryForm_fillBelow {α : Type} {m : Memory α} {P : Nat × α → Prop} {n : Nat} {f : Nat → α}
    (h : Memory.wf m ∧ ∀ x ∈ m, P x) (hf : ∀ i < n, P (i, f i)) :
    Memory.wf (Memory.fillBelow m n f) ∧ ∀ x ∈ Memory.fillBelow m n f, P x := by
  refine ⟨Memory_fillBelow_wf n f h.1, fun x hx => ?_⟩
  rcases Memory_mem_fillBelow hx with ⟨hlt, hv⟩ | hx
  · have hx : x = (x.1, f x.1) := Prod.ext rfl hv
    exact hx ▸ hf x.1 hlt
  · exact h.2 x hx

/-! ### Reset (R48, R230) -/

theorem coreInv_resetWith {p : Params} (e : Nat) (hp : p.legal) : CoreInv (State.resetWith p e) :=
  coreInv_of_parts
    { legal := hp
      genInLength := List.length_replicate
      genLength := List.length_replicate
      inMemForm := by simp [State.resetWith]
      outMemForm := by simp [State.resetWith]
      costForm := by simp [State.resetWith]
      bpForm := by simp [State.resetWith]
      encWidth := Nat.two_pow_pos _
      siWidth := Nat.two_pow_pos _
      fstWidth := Nat.two_pow_pos _
      ctrlInReserved := by simp [State.resetWith]
      ctrlReserved := by simp [State.resetWith]
      configuredRange := by simp [State.resetWith] }
    rfl

/-- In IDLE no DECODE runs, and the trellis invariant asks nothing. -/
theorem trellisInv_of_idle (h : s.phase = .idle) : TrellisInv s := by
  constructor <;> simp [h]

theorem coreInv_resetEvent (h : CoreInv s) : CoreInv s.resetEvent :=
  { coreInv_resetWith (s.freeEpoch + 1) h.legal with }

/-! ### Start and end of a command (R21, R207, R210) -/

theorem coreInv_takeTurn (h : CoreInv s) : CoreInv (takeTurn s) := { h with }

theorem coreInv_acceptCommand (w : Word) (h : CoreInv s) : CoreInv (s.acceptCommand w) :=
  coreInv_of_parts { storeInv_of_coreInv h with } ⟨rfl, rfl⟩

theorem coreInv_endCommand (c : ErrCode) (h : StoreInv s) : CoreInv (s.endCommand c) :=
  coreInv_of_parts { h with } rfl

/-! ### CONFIGURE (R110 to R119) -/

/-- R111, R112: a staged configuration that passes both checks commits a K and a G within bounds. -/
theorem staged_range (hi : s.stagedInvalid = false) (hl : s.stagedTooLarge = false) :
    (1 ≤ s.kIn.toNat ∧ s.kIn.toNat ≤ s.params.kMax) ∧ (1 ≤ s.gIn.toNat ∧ s.gIn.toNat ≤ s.params.gMax) := by
  rw [State.stagedInvalid, decide_eq_false_iff_not, not_or, Int.not_le] at hi
  rw [State.stagedTooLarge, decide_eq_false_iff_not, not_or, Int.not_lt, Nat.not_lt] at hl
  obtain ⟨hkPos, hgNe⟩ := hi
  obtain ⟨hkLe, hgLe⟩ := hl
  have hk : s.kinSigned = s.kIn.toNat := BitVec.toInt_eq_toNat_of_lt (BitVec.toInt_pos_iff.1 (Int.le_of_lt hkPos))
  have hg : s.gIn.toNat ≠ 0 := fun e => hgNe (BitVec.eq_of_toNat_eq e)
  omega

theorem storeInv_commitConfig (h : StoreInv s) (hi : s.stagedInvalid = false) (hl : s.stagedTooLarge = false) :
    StoreInv s.commitConfig :=
  { h with
    genLength := h.genInLength
    ctrlReserved := by rw [commitConfig_ctrl, bit0Word_toNat]; omega
    configuredRange := fun _ => by
      have hk : BitVec.ofInt 32 s.kinSigned = s.kIn := BitVec.ofInt_toInt
      simpa [State.kNum, State.gNum, hk] using staged_range hi hl }

theorem coreInv_execConfigure (h : CoreInv s) (ho : s.opc = encode .configure) (he : execConfigure s = .next t) :
    CoreInv t := by
  have hst := storeInv_of_coreInv h
  obtain ⟨-, rfl⟩ | ⟨-, -, rfl⟩ | ⟨-, -, -, rfl⟩ | ⟨hp, hi, hl, rfl⟩ | ⟨hp, rfl⟩ := execConfigure_cases he
  · exact coreInv_acceptCommand _ h
  · exact coreInv_endCommand _ hst
  · exact coreInv_endCommand _ hst
  · obtain ⟨hb, hd⟩ : s.busy = true ∧ s.pollDue = true := phaseInv_of_phase h hp
    exact coreInv_of_parts { hst with } ⟨⟨hb, hd, ho⟩, hi, hl⟩
  · obtain ⟨hi, hl⟩ := h.committing hp
    exact coreInv_endCommand _ (storeInv_commitConfig hst hi hl)

/-! ### ENCODE (R130 to R142) -/

/-- R131, R133: the group of an input bit below IN_LEN lies within OUT_MEM. -/
theorem group_end_le (hl : s.encodeTooLarge = false) (hlt : s.iIdx.toNat < s.inLen.toNat) :
    s.iIdx.toNat * s.gNum + s.gNum ≤ s.params.lMax := by
  rw [State.encodeTooLarge, decide_eq_false_iff_not, Nat.not_lt] at hl
  calc s.iIdx.toNat * s.gNum + s.gNum = (s.iIdx.toNat + 1) * s.gNum := (Nat.succ_mul _ _).symm
    _ ≤ s.inLen.toNat * s.gNum := Nat.mul_le_mul_right _ hlt
    _ ≤ s.params.lMax := hl

theorem coreInv_startEncode (h : CoreInv s) (hp : s.phase = .check) (ho : s.opc = encode .encode)
    (hc : s.configured = true) (hl : s.encodeTooLarge = false) : CoreInv s.startEncode := by
  obtain ⟨hb, hd⟩ : s.busy = true ∧ s.pollDue = true := phaseInv_of_phase h hp
  exact coreInv_of_parts
    { storeInv_of_coreInv h with encWidth := Nat.two_pow_pos _ }
    ⟨⟨hb, hd, ho⟩, hc, hl, Nat.zero_le _, stateCount_pos s⟩

theorem coreInv_encodeBit (x : Bit) (h : CoreInv s) (hp : s.phase = .encStep) (hne : s.iIdx ≠ s.inLen) :
    CoreInv (s.encodeBit x) := by
  obtain ⟨hc, hl, hle, -⟩ := h.encoding hp
  obtain ⟨hinc, hlt⟩ := inc_toNat hle hne
  have hnext := nextState_lt s (shiftIn s.encState x)
  have hend := group_end_le hl hlt
  exact { h with
    outMemForm := ⟨writeGroup_wf h.outMemForm.1, fun y hy =>
      (writeGroup_mem hy).elim (fun hy => Nat.lt_of_lt_of_le hy hend) (h.outMemForm.2 y)⟩
    encWidth := Nat.lt_of_lt_of_le hnext (stateCount_le h hc)
    encoding := fun _ => ⟨hc, hl, hinc ▸ hlt, hnext⟩ }

theorem coreInv_execEncode (h : CoreInv s) (ho : s.opc = encode .encode) (he : execEncode s = .next t) :
    CoreInv t := by
  have hst := storeInv_of_coreInv h
  obtain ⟨-, rfl⟩ | ⟨-, -, rfl⟩ | ⟨-, -, -, rfl⟩ | ⟨hp, hc, hl, rfl⟩ | ⟨-, -, rfl⟩ | ⟨hp, hne, x, -, rfl⟩ :=
    execEncode_cases he
  · exact coreInv_acceptCommand _ h
  · exact coreInv_endCommand _ hst
  · exact coreInv_endCommand _ hst
  · exact coreInv_startEncode h hp ho hc hl
  · exact coreInv_endCommand _ { hst with }
  · exact coreInv_encodeBit x h hp hne

/-! ### DECODE: checks and DEC_INIT (R150 to R153) -/

theorem coreInv_startDecode (h : CoreInv s) (hp : s.phase = .check) (ho : s.opc = encode .decode)
    (hc : s.configured = true) (hdiv : s.lengthInvalid = false) (hl : s.decodeTooLarge = false) :
    CoreInv s.startDecode := by
  obtain ⟨hb, hd⟩ : s.busy = true ∧ s.pollDue = true := phaseInv_of_phase h hp
  rw [State.lengthInvalid, decide_eq_false_iff_not, ne_eq, not_not] at hdiv
  have hsteps : (BitVec.ofNat 32 (s.inLen.toNat / s.gNum)).toNat = s.inLen.toNat / s.gNum := by
    rw [BitVec.toNat_ofNat, Nat.mod_eq_of_lt (Nat.lt_of_le_of_lt (Nat.div_le_self _ _) s.inLen.isLt)]
  have hlen : s.inLen.toNat = (BitVec.ofNat 32 (s.inLen.toNat / s.gNum)).toNat * s.gNum := by
    rw [hsteps, Nat.div_mul_cancel (Nat.dvd_of_mod_eq_zero hdiv)]
  exact coreInv_of_parts { storeInv_of_coreInv h with } ⟨⟨hb, hd, ho⟩, hc, hl, hlen⟩

theorem storeInv_initTrellis (h : CoreInv s) (hd : decoding s.phase = true) : StoreInv s.initTrellis :=
  have hsize := trellisSize_le h hd
  { storeInv_of_coreInv h with
    costForm := memoryForm_write
      (memoryForm_fillBelow h.costForm fun _ hi => ⟨Nat.lt_of_lt_of_le hi hsize, Nat.le_refl _⟩)
      ⟨Nat.lt_of_lt_of_le (cellIndex_lt (Nat.zero_le _) (stateCount_pos s)) hsize, Nat.zero_le _⟩
    bpForm := memoryForm_fillBelow h.bpForm fun i hi => ⟨Nat.lt_of_lt_of_le hi hsize, bpCell_pred_lt h i⟩ }

theorem coreInv_startForward (h : CoreInv s) (hp : s.phase = .decInit) (hn : s.nSteps ≠ 0) :
    CoreInv s.initTrellis.startForward := by
  obtain ⟨hrun, hck⟩ : Running s .decode ∧ DecodeChecked s := phaseInv_of_phase h hp
  have hn : 0 < s.nSteps.toNat := (dec_toNat hn).2
  exact coreInv_of_parts
    { storeInv_initTrellis h (by rw [hp]; rfl) with siWidth := Nat.two_pow_pos _ }
    ⟨hrun, hck, hn, stateCount_pos s⟩

/-! ### DECODE: the forward pass (R154 to R165) -/

theorem coreInv_select {ns c : Nat} (h : CoreInv s) (hp : s.phase = .decAcs) (hns : ns < s.stateCount)
    (hc : c ≤ s.inf) : CoreInv (s.select ns c) := by
  have hcell : s.cellIndex (s.t.toNat + 1) ns < (s.params.nMax + 1) * 2 ^ (s.params.kMax - 1) :=
    Nat.lt_of_lt_of_le (cellIndex_lt (h.forward hp).1 hns) (trellisSize_le h (by rw [hp]; rfl))
  unfold State.select
  split
  · exact { h with
      costForm := memoryForm_write h.costForm ⟨hcell, hc⟩
      bpForm := memoryForm_write h.bpForm ⟨hcell, h.siWidth⟩ }
  · exact h

/-- The next candidate, or the hand-over to DEC_SEL after the last one. -/
theorem coreInv_nextCandidate {b : Bit} {si : Nat} {n : Word} (h : CoreInv s) (hp : s.phase = .decAcs)
    (hsi : si < s.stateCount) (hn : n.toNat ≤ s.nSteps.toNat) :
    CoreInv { s with b := b, si := si, t := n, phase := if n = s.nSteps then .decSel else .decAcs } := by
  obtain ⟨hrun, hck, hlt, -⟩ :
      Running s .decode ∧ DecodeChecked s ∧ s.t.toNat < s.nSteps.toNat ∧ s.si < s.stateCount := phaseInv_of_phase h hp
  have hst : StoreInv { s with si := si } :=
    { storeInv_of_coreInv h with siWidth := Nat.lt_of_lt_of_le hsi (stateCount_le h hck.1) }
  split
  · exact coreInv_of_parts { hst with } ⟨hrun, hck, Nat.zero_lt_of_lt hlt⟩
  · rename_i hne
    exact coreInv_of_parts { hst with } ⟨hrun, hck, (inc_toNat hn hne).2, hsi⟩

theorem coreInv_advance (h : CoreInv s) (hp : s.phase = .decAcs) : CoreInv s.advance := by
  obtain ⟨hlt, hsi⟩ := h.forward hp
  have hnext : (s.t + 1).toNat ≤ s.nSteps.toNat := by
    rw [(inc_toNat (Nat.le_of_lt hlt) fun e => Nat.lt_irrefl _ (e ▸ hlt)).1]
    exact hlt
  obtain ⟨-, -, he⟩ | ⟨-, hwrap, -⟩ | ⟨-, hne, he⟩ | ⟨-, -, he⟩ := advance_forms s
  · exact he ▸ coreInv_nextCandidate h hp hsi (Nat.le_of_lt hlt)
  · exact absurd hwrap (Nat.ne_of_lt hsi)
  · exact he ▸ coreInv_nextCandidate h hp (by omega) (Nat.le_of_lt hlt)
  · exact he ▸ coreInv_nextCandidate h hp (stateCount_pos s) hnext

/-! ### DECODE: selection and traceback (R180 to R186) -/

theorem coreInv_selectTerminal (h : CoreInv s) (hp : s.phase = .decSel) :
    CoreInv { s with fst := s.terminalState, t := s.nSteps, phase := .decTb } := by
  obtain ⟨hrun, hck, -⟩ : Running s .decode ∧ DecodeChecked s ∧ 0 < s.nSteps.toNat := phaseInv_of_phase h hp
  exact coreInv_of_parts
    { storeInv_of_coreInv h with fstWidth := Nat.lt_of_lt_of_le (terminalState_lt s) (stateCount_le h hck.1) }
    ⟨hrun, hck, Nat.le_refl _⟩

/-- R151: a DECODE past its checks has no more time steps than OUT_MEM has elements. -/
theorem nSteps_le_lMax (h : CoreInv s) (hd : decoding s.phase = true) : s.nSteps.toNat ≤ s.params.lMax := by
  obtain ⟨hc, hl, hlen⟩ := h.decodingSize hd
  obtain ⟨-, hg, -⟩ := h.configuredRange hc
  obtain ⟨-, -, -, ⟨-, hnl⟩, -⟩ := h.legal
  rw [State.decodeTooLarge, decide_eq_false_iff_not, not_or, Nat.not_lt, Nat.not_lt, hlen,
    Nat.mul_div_cancel _ hg] at hl
  exact Nat.le_trans hl.2 hnl

theorem coreInv_traceBit {e : BpEntry} (h : CoreInv s) (hp : s.phase = .decTb) (hne : s.t ≠ 0)
    (he : e.pred < 2 ^ (s.params.kMax - 1)) : CoreInv (s.traceBit e) := by
  have hle := h.tracing hp
  have hN := nSteps_le_lMax h (by rw [hp]; rfl)
  obtain ⟨hdec, hpos⟩ := dec_toNat hne
  have hidx : s.t.toNat - 1 < s.params.lMax := by omega
  exact { h with
    outMemForm := memoryForm_write h.outMemForm hidx
    fstWidth := he
    forward := fun hf => absurd (hp.symm.trans hf) (by decide)
    tracing := fun _ => by rw [traceBit_t, hdec, traceBit_nSteps]; omega }

theorem coreInv_execDecode (h : CoreInv s) (ho : s.opc = encode .decode) (he : execDecode s = .next t) :
    CoreInv t := by
  have hst := storeInv_of_coreInv h
  obtain ⟨-, rfl⟩ | ⟨-, -, rfl⟩ | ⟨-, -, -, rfl⟩ | ⟨-, -, -, -, rfl⟩ | ⟨hp, hc, hdiv, hl, rfl⟩ |
    ⟨hp, -, rfl⟩ | ⟨hp, hn, rfl⟩ | ⟨hp, -, rfl⟩ | ⟨hp, -, seg, -, rfl⟩ | ⟨hp, rfl⟩ | ⟨-, -, rfl⟩ |
    ⟨hp, hne, -, rfl⟩ := execDecode_cases he
  · exact coreInv_acceptCommand _ h
  · exact coreInv_endCommand _ hst
  · exact coreInv_endCommand _ hst
  · exact coreInv_endCommand _ hst
  · exact coreInv_startDecode h hp ho hc hdiv hl
  · exact coreInv_endCommand _ { storeInv_initTrellis h (by rw [hp]; rfl) with }
  · exact coreInv_startForward h hp hn
  · exact coreInv_advance h hp
  · exact coreInv_advance (coreInv_select h hp (nextState_lt s _) (Nat.min_le_right _ _)) (by rw [select_phase, hp])
  · exact coreInv_selectTerminal h hp
  · exact coreInv_endCommand _ { hst with }
  · exact coreInv_traceBit h hp hne (bpCell_pred_lt h _)

/-! ### The ENGINE (R46, R208) -/

theorem exec_keeps_coreInv {i : Instr} (h : CoreInv s) (ho : s.opc = encode i) (he : exec i s = .next t) :
    CoreInv t := by
  cases i with
  | configure => exact coreInv_execConfigure h ho he
  | encode => exact coreInv_execEncode h ho he
  | decode => exact coreInv_execDecode h ho he

theorem opcode_of_decodeOp {op : BitVec 4} {i : Instr} (h : decodeOp op = some i) : op = opcode i := by
  unfold decodeOp at h
  split_ifs at h <;> cases h <;> assumption

/-- A command word is its two fields (R92). -/
theorem rsvdField_append_opField (w : Word) : rsvdField w ++ opField w = w := by
  apply BitVec.eq_of_toNat_eq
  have hop := opField_toNat w
  rw [BitVec.toNat_append, rsvdField_toNat, ← Nat.shiftLeft_add_eq_or_of_lt (opField w).isLt, Nat.shiftLeft_eq, hop]
  omega

/-- A word that decodes to a command is the encoding of that command (R93). -/
theorem eq_encode_of_decodeWord {w : Word} {i : Instr} (h : decodeWord w = .ok i) : w = encode i := by
  unfold decodeWord at h
  split at h
  · rename_i hr
    split at h <;> cases h
    rename_i ho
    calc w = rsvdField w ++ opField w := (rsvdField_append_opField w).symm
      _ = 0#28 ++ opcode i := by rw [hr, opcode_of_decodeOp ho]; rfl
  · cases h

theorem engineStep_keeps_coreInv (h : CoreInv s) (he : engineStep s = .next t) : CoreInv t := by
  obtain ⟨-, rfl⟩ | ⟨-, -, rfl⟩ | ⟨-, i, hd, he⟩ | ⟨i, hw, he⟩ := engineStep_cases he
  · exact h
  · exact coreInv_endCommand _ (storeInv_of_coreInv h)
  · exact exec_keeps_coreInv h (eq_encode_of_decodeWord hd) he
  · exact exec_keeps_coreInv h (h.phaseWord i hw) he

/-! ### The HOST (R14, R63, R64) -/

/-- A read leaves the core as it is, and R234's window open while BUSY = 1. -/
theorem coreInv_observe (a v : Word) (h : CoreInv s) : CoreInv (s.observe a v) :=
  { h with busyDue := fun hb => by simp [h.busyDue hb, show s.busy = true from hb] }

/-- A write of a mapped target while BUSY = 0; in IDLE no phase bears on the registers it changes. -/
theorem coreInv_writeTarget {a w : Word} {tgt : Target} (h : CoreInv s) (hb : s.busy = false)
    (ha : decodeAddr s.params a = some tgt) : CoreInv (s.writeTarget tgt w) := by
  have hst := storeInv_of_coreInv h
  have hbit : (bit0Word w).toNat ≤ 1 := by rw [bit0Word_toNat]; omega
  have hp := phase_idle_of_not_busy h hb
  cases tgt with
  | cmd => exact coreInv_acceptCommand w h
  | kIn | gIn | inLen => exact coreInv_of_parts { hst with } (phaseInv_of_idle hp hb)
  | ctrlIn => exact { h with ctrlInReserved := hbit }
  | genIn j => exact { h with genInLength := (List.length_set ..).trans h.genInLength }
  | inMem i => exact { h with inMemForm := memoryForm_write h.inMemForm (decodeAddr_inMem ha) }
  | status | outLen | k | g | ctrl | gen _ | outMem _ => exact h

theorem hostStep_keeps_coreInv {op : HostOp} (h : CoreInv s) (he : hostStep op s = .next t) : CoreInv t := by
  cases op with
  | read a =>
    obtain ⟨-, v, -, rfl⟩ := hostRead_cases he
    exact coreInv_observe a v h
  | write a w =>
    obtain ⟨hb, tgt, ha, rfl⟩ := hostWrite_cases he
    exact coreInv_writeTarget (s := s.noteAccess) { h with } hb ha
  | reset =>
    cases he
    exact coreInv_resetEvent h

/-! ### The obligations -/

/-- Settles O57: every move of the ENGINE and of the HOST keeps the invariant. -/
theorem stepKeepsInv : Obligations.StepKeepsInv := by
  intro s t h hstep
  obtain ⟨-, he⟩ | ⟨op, -, he⟩ := step_cases hstep
  · exact engineStep_keeps_coreInv (coreInv_takeTurn h) he
  · exact hostStep_keeps_coreInv (coreInv_takeTurn h) he

/-- Settles O56: the reset values meet every clause, and IDLE makes the phases' clauses void. -/
theorem resetMeetsInvariants : Obligations.ResetMeetsInvariants :=
  ⟨fun _ e hp => ⟨coreInv_resetWith e hp, trellisInv_of_idle rfl⟩,
    coreInv_resetWith 0 (by decide), trellisInv_of_idle rfl⟩

end Sys2Proof.Proofs
end

section
/-! PROOFS. The state and who changes it (O5, O7, O12, O15, O19, O44, O48, O51, O55, O60): what one move of either agent
can change, and what the host's reads and writes of registers and bit memory elements answer. -/

namespace Sys2Proof.Proofs

open Sys2Proof.Machine Sys2Proof.Safety Sys2Proof.Laws

variable {s t : State}

/-! ### Whose turn it is (R14, R46) -/

theorem takeTurn_of_empty (h : s.schedule = []) : takeTurn s = s := by
  cases s
  simp_all [takeTurn]

theorem step_of_engineTurn (h : EngineTurn s) : step s = engineStep (takeTurn s) := by
  unfold step
  split
  · rename_i hs
    rw [takeTurn_of_empty hs]
  · rename_i rest hs
    simp [takeTurn, hs]
  · rename_i op rest hs
    simp [EngineTurn, hs] at h

theorem step_of_hostTurn {op : HostOp} (h : s.schedule.head? = some (.host op)) :
    step s = hostStep op (takeTurn s) := by
  obtain ⟨rest, hs⟩ := List.head?_eq_some_iff.1 h
  simp [step, takeTurn, hs]

/-- Settles O5: the model's step is the ENGINE's, which picks the command by PHASE, and in CHECK by OPC. -/
theorem stepRunsDecodedCommand : Obligations.StepRunsDecodedCommand := by
  intro s hturn
  rw [step_of_engineTurn hturn]
  refine ⟨fun i h => ?_, fun hp => ?_⟩
  · obtain ⟨hp, hd⟩ | hw := h
    · exact engineStep_of_check hp hd
    · exact engineStep_of_phase hw
  · unfold engineStep
    rw [show (takeTurn s).phase = .idle from hp]

/-! ### The reset event (R48, R230) -/

theorem statusWord_eq_zero (he : s.err = .none) (hb : s.busy = false) (hc : s.configured = false) :
    s.statusWord = 0 := by
  rw [State.statusWord, he, hb, hc]
  rfl

/-- Settles O55: the reset event writes R48's values; the two generator files are zeros of length G_MAX, and the bit
memories list nothing. -/
theorem resetEvent : Obligations.ResetEvent := by
  intro s hturn
  have hzero : ∀ j, (List.replicate s.params.gMax (0 : Word)).getD j 0 = 0 := fun j => by
    by_cases hj : j < s.params.gMax <;> simp [hj]
  exact ⟨(takeTurn s).resetEvent, step_of_hostTurn hturn, statusWord_eq_zero rfl rfl rfl, rfl, rfl, rfl,
    rfl, rfl, rfl, hzero, rfl, rfl, rfl, hzero, rfl, rfl, rfl, fun _ => rfl, fun _ => rfl, rfl, rfl, rfl, rfl, rfl⟩

/-! ### Acceptance of a command (R21) -/

/-- In IDLE the meaning of a command is its acceptance with its own word (log entry 8). -/
theorem exec_of_idle (i : Instr) (hp : s.phase = .idle) : exec i s = .next (s.acceptCommand (encode i)) := by
  cases i <;> simp [exec, execConfigure, execEncode, execDecode, hp]

theorem hostWrite_cmd (w : Word) (hb : s.busy = false) : hostWrite 0 w s = .next (s.noteAccess.acceptCommand w) :=
  hostWrite_of (tgt := .cmd) hb rfl

/-- Settles O7: a CMD write and the meaning of a command in IDLE both answer R21's acceptance. -/
theorem commandAccepted : Obligations.CommandAccepted := fun _ =>
  ⟨fun w hb => hostWrite_cmd w hb, fun hp =>
    ⟨exec_of_idle .configure hp, exec_of_idle .encode hp, exec_of_idle .decode hp⟩⟩

/-! ### CONFIGURE from its CMD write (R110, R113) -/

/-- R110, R208: CHECK of a valid staged configuration goes on to CFG_COMMIT. -/
theorem execConfigure_check_of_valid (hp : s.phase = .check) (hi : s.stagedInvalid = false)
    (hl : s.stagedTooLarge = false) : execConfigure s = .next { s with phase := .cfgCommit } := by
  simp [execConfigure, configureCheck, hp, hi, hl]

theorem engineRun_two {u : State} (h : engineStep s = .next u) (h' : engineStep u = .next t) :
    engineRun 2 s = .next t := by
  simp [engineRun, h, h']

/-- An accepted CONFIGURE with a valid staged configuration: CHECK, then CFG_COMMIT. -/
theorem engineRun_configure (hp : s.phase = .check) (ho : s.opc = 1) (hi : s.stagedInvalid = false)
    (hl : s.stagedTooLarge = false) :
    engineRun 2 s = .next ({ s with phase := .cfgCommit }.commitConfig.endCommand .none) :=
  have hd : decodeWord s.opc = .ok .configure := by rw [ho]; rfl
  engineRun_two ((engineStep_of_check hp hd).trans (execConfigure_check_of_valid hp hi hl)) rfl

/-- Settles O12: the CMD write puts CONFIGURE in CHECK, and the staged configuration passes both checks. -/
theorem configureRuns : Obligations.ConfigureRuns := by
  intro s hb hkPos hkLe hgNe hgLe
  have hi : s.stagedInvalid = false := by
    rw [← Bool.not_eq_true, stagedInvalid_iff]
    exact fun h => h.elim (Int.not_le.2 hkPos) hgNe
  have hl : s.stagedTooLarge = false := by
    rw [← Bool.not_eq_true, stagedTooLarge_iff]
    exact fun h => h.elim (Int.not_lt.2 hkLe) (Nat.not_lt.2 hgLe)
  refine ⟨_, _, hostWrite_cmd 1 hb, engineRun_configure rfl rfl hi hl, BitVec.ofInt_toInt, rfl, bit0Word_toNat _, rfl,
    rfl, rfl, rfl, rfl, rfl, ⟨rfl, rfl, rfl, rfl, rfl⟩, fun _ => rfl, fun _ => rfl, ?_⟩
  change (s.hazard || (s.busy || s.pollDue)) = _
  rw [hb, Bool.false_or]

/-! ### What a move of the ENGINE can change -/

/-- A move of the ENGINE from `s` to `t`, as far as it concerns the registers whose writers the statements name: the
input memory, R234's window and its record stay; BUSY and ERR change only at the end of a command; CONFIGURED is set in
CFG_COMMIT only; OUT_MEM is written by an ENC_STEP and a DEC_TB only. -/
structure EngineMove (s t : State) : Prop where
  inMem : t.inMem = s.inMem
  pollDue : t.pollDue = s.pollDue
  hazard : t.hazard = s.hazard
  status : (t.busy = s.busy ∧ t.err = s.err) ∨ (s.phase ≠ .idle ∧ t.phase = .idle ∧ t.busy = false)
  configured : t.configured = s.configured ∨ (s.phase = .cfgCommit ∧ t.configured = true ∧ t.err = .none)
  outMem : ∀ a, Memory.read t.outMem a ≠ Memory.read s.outMem a →
    (s.phase = .encStep ∧ s.iIdx ≠ s.inLen ∧ s.iIdx.toNat * s.gNum ≤ a ∧ a < s.iIdx.toNat * s.gNum + s.gNum) ∨
    (s.phase = .decTb ∧ s.t ≠ 0 ∧ a = s.t.toNat - 1)

/-- A move that touches none of these registers. -/
theorem EngineMove.of_same (hin : t.inMem = s.inMem) (hd : t.pollDue = s.pollDue) (hz : t.hazard = s.hazard)
    (hb : t.busy = s.busy) (he : t.err = s.err) (hc : t.configured = s.configured) (ho : t.outMem = s.outMem) :
    EngineMove s t :=
  ⟨hin, hd, hz, .inl ⟨hb, he⟩, .inl hc, fun _ hne => absurd (by rw [ho]) hne⟩

/-- A move that ends a command (R207, R210) and writes nothing else of these registers. -/
theorem EngineMove.of_end (c : ErrCode) (hp : s.phase ≠ .idle) (hin : t.inMem = s.inMem) (hd : t.pollDue = s.pollDue)
    (hz : t.hazard = s.hazard) (hc : t.configured = s.configured) (ho : t.outMem = s.outMem) :
    EngineMove s (t.endCommand c) :=
  ⟨hin, hd, hz, .inr ⟨hp, rfl, rfl⟩, .inl hc, fun _ hne => absurd (by rw [endCommand_outMem, ho]) hne⟩

/-- R133, R135: an ENC_STEP writes group I only. -/
theorem encodeBit_outMem_change {x : Bit} {a : Nat}
    (hne : Memory.read (s.encodeBit x).outMem a ≠ Memory.read s.outMem a) :
    s.iIdx.toNat * s.gNum ≤ a ∧ a < s.iIdx.toNat * s.gNum + s.gNum := by
  rw [encodeBit_outMem, writeGroup_read] at hne
  by_contra hout
  exact hne (if_neg hout)

/-- R183: a DEC_TB writes element `T - 1` only. -/
theorem traceBit_outMem_change {e : BpEntry} {a : Nat}
    (hne : Memory.read (s.traceBit e).outMem a ≠ Memory.read s.outMem a) : a = s.t.toNat - 1 := by
  by_contra h
  exact hne (Memory_read_write_ne _ _ h)

theorem engineMove_execConfigure (hp : s.phase ≠ .idle) (he : execConfigure s = .next t) : EngineMove s t := by
  obtain ⟨hidle, -⟩ | ⟨-, -, rfl⟩ | ⟨-, -, -, rfl⟩ | ⟨-, -, -, rfl⟩ | ⟨hc, rfl⟩ := execConfigure_cases he
  · exact absurd hidle hp
  · exact .of_end _ hp rfl rfl rfl rfl rfl
  · exact .of_end _ hp rfl rfl rfl rfl rfl
  · exact .of_same rfl rfl rfl rfl rfl rfl rfl
  · exact ⟨rfl, rfl, rfl, .inr ⟨hp, rfl, rfl⟩, .inr ⟨hc, rfl, rfl⟩, fun _ hne => absurd rfl hne⟩

theorem engineMove_execEncode (hp : s.phase ≠ .idle) (he : execEncode s = .next t) : EngineMove s t := by
  obtain ⟨hidle, -⟩ | ⟨-, -, rfl⟩ | ⟨-, -, -, rfl⟩ | ⟨-, -, -, rfl⟩ | ⟨-, -, rfl⟩ | ⟨hstep, hne, x, -, rfl⟩ :=
    execEncode_cases he
  · exact absurd hidle hp
  · exact .of_end _ hp rfl rfl rfl rfl rfl
  · exact .of_end _ hp rfl rfl rfl rfl rfl
  · exact .of_same rfl rfl rfl rfl rfl rfl rfl
  · exact .of_end _ hp rfl rfl rfl rfl rfl
  · exact ⟨rfl, rfl, rfl, .inl ⟨rfl, rfl⟩, .inl rfl, fun _ ha =>
      .inl ⟨hstep, hne, encodeBit_outMem_change ha⟩⟩

theorem engineMove_execDecode (hp : s.phase ≠ .idle) (he : execDecode s = .next t) : EngineMove s t := by
  obtain ⟨hidle, -⟩ | ⟨-, -, rfl⟩ | ⟨-, -, -, rfl⟩ | ⟨-, -, -, -, rfl⟩ | ⟨-, -, -, -, rfl⟩ | ⟨-, -, rfl⟩ |
    ⟨-, -, rfl⟩ | ⟨-, -, rfl⟩ | ⟨-, -, seg, -, rfl⟩ | ⟨-, rfl⟩ | ⟨-, -, rfl⟩ | ⟨htb, hne, -, rfl⟩ := execDecode_cases he
  · exact absurd hidle hp
  · exact .of_end _ hp rfl rfl rfl rfl rfl
  · exact .of_end _ hp rfl rfl rfl rfl rfl
  · exact .of_end _ hp rfl rfl rfl rfl rfl
  · exact .of_same rfl rfl rfl rfl rfl rfl rfl
  · exact .of_end _ hp rfl rfl rfl rfl rfl
  · exact .of_same rfl rfl rfl rfl rfl rfl rfl
  · exact .of_same rfl rfl rfl rfl rfl rfl rfl
  · apply EngineMove.of_same <;> simp
  · exact .of_same rfl rfl rfl rfl rfl rfl rfl
  · exact .of_end _ hp rfl rfl rfl rfl rfl
  · exact ⟨rfl, rfl, rfl, .inl ⟨rfl, rfl⟩, .inl rfl, fun _ ha =>
      .inr ⟨htb, hne, traceBit_outMem_change ha⟩⟩

theorem engineMove_exec {i : Instr} (hp : s.phase ≠ .idle) (he : exec i s = .next t) : EngineMove s t := by
  cases i with
  | configure => exact engineMove_execConfigure hp he
  | encode => exact engineMove_execEncode hp he
  | decode => exact engineMove_execDecode hp he

theorem engineMove_engineStep (he : engineStep s = .next t) : EngineMove s t := by
  obtain ⟨-, rfl⟩ | ⟨hp, -, rfl⟩ | ⟨hp, i, -, he⟩ | ⟨i, hw, he⟩ := engineStep_cases he
  · exact .of_same rfl rfl rfl rfl rfl rfl rfl
  · exact .of_end _ (by simp [hp]) rfl rfl rfl rfl rfl
  · exact engineMove_exec (by simp [hp]) he
  · exact engineMove_exec (fun hp => by simp [hp, phaseCommand] at hw) he

/-- Every next state of the model, by move: the ENGINE's, a read, a write or the reset action (R14). -/
theorem step_moves (h : step s = .next t) :
    (EngineTurn s ∧ EngineMove s t) ∨
    (∃ a v, s.schedule.head? = some (.host (.read a)) ∧ (s.busy = true → s.isStatusRead a = true) ∧
      t = (takeTurn s).observe a v) ∨
    (∃ a w tgt, s.schedule.head? = some (.host (.write a w)) ∧ s.busy = false ∧
      decodeAddr s.params a = some tgt ∧ t = (takeTurn s).noteAccess.writeTarget tgt w) ∨
    (s.schedule.head? = some (.host .reset) ∧ t = (takeTurn s).resetEvent) := by
  obtain ⟨hturn, he⟩ | ⟨op, hturn, he⟩ := step_cases h
  · exact .inl ⟨hturn, { engineMove_engineStep he with }⟩
  · cases op with
    | read a =>
      obtain ⟨hb, v, -, rfl⟩ := hostRead_cases he
      exact .inr (.inl ⟨a, v, hturn, hb, rfl⟩)
    | write a w =>
      obtain ⟨hb, tgt, ha, rfl⟩ := hostWrite_cases he
      exact .inr (.inr (.inl ⟨a, w, tgt, hturn, hb, ha, rfl⟩))
    | reset =>
      cases he
      exact .inr (.inr (.inr ⟨hturn, rfl⟩))

/-- A write of a register other than CMD leaves BUSY and R234's window as they are (R64). -/
theorem writeTarget_window {tgt : Target} (w : Word) (h : tgt ≠ .cmd) :
    (s.writeTarget tgt w).busy = s.busy ∧ (s.writeTarget tgt w).pollDue = s.pollDue := by
  cases tgt with
  | cmd => exact absurd rfl h
  | _ => exact ⟨rfl, rfl⟩

theorem writeTarget_err (s : State) (tgt : Target) (w : Word) : (s.writeTarget tgt w).err = s.err :=
  let ⟨_, _, _, _, _, he, _⟩ := writeTarget_keeps s tgt w
  he

theorem writeTarget_configured (s : State) (tgt : Target) (w : Word) :
    (s.writeTarget tgt w).configured = s.configured :=
  let ⟨_, _, _, _, hc, _⟩ := writeTarget_keeps s tgt w
  hc

theorem writeTarget_outMem (s : State) (tgt : Target) (w : Word) : (s.writeTarget tgt w).outMem = s.outMem :=
  let ⟨_, _, _, _, _, _, ho, _⟩ := writeTarget_keeps s tgt w
  ho

theorem writeTarget_hazard (s : State) (tgt : Target) (w : Word) : (s.writeTarget tgt w).hazard = s.hazard :=
  let ⟨_, _, _, _, _, _, _, _, _, _, hz⟩ := writeTarget_keeps s tgt w
  hz

theorem writeTarget_params (s : State) (tgt : Target) (w : Word) : (s.writeTarget tgt w).params = s.params := by
  cases tgt <;> rfl

/-! ### CONFIGURED (R23) -/

theorem exec_notConfigured {i : Instr} (hi : i ≠ .configure) (hp : s.phase = .check) (hc : s.configured = false) :
    exec i s = .next (s.endCommand .notConfigured) := by
  cases i with
  | configure => exact absurd rfl hi
  | encode => simp [exec, execEncode, encodeCheck, raiseError, hp, hc]
  | decode => simp [exec, execDecode, decodeCheck, raiseError, hp, hc]

theorem configured_change (h : step s = .next t) (hne : t.configured ≠ s.configured) :
    (EngineTurn s ∧ s.phase = .cfgCommit ∧ t.configured = true ∧ t.err = .none) ∨
    (s.schedule.head? = some (.host .reset) ∧ t.configured = false) := by
  obtain ⟨hturn, hm⟩ | ⟨a, v, -, -, rfl⟩ | ⟨a, w, tgt, -, -, -, rfl⟩ | ⟨hturn, rfl⟩ := step_moves h
  · exact .inl ⟨hturn, hm.configured.resolve_left hne⟩
  · exact absurd rfl hne
  · exact absurd (writeTarget_configured _ tgt w) hne
  · exact .inr ⟨hturn, rfl⟩

/-- Settles O15: CFG_COMMIT and reset are the only moves that write CONFIGURED, and CHECK of ENCODE and of DECODE tests
it first. -/
theorem configuredWriters : Obligations.ConfiguredWriters :=
  ⟨rfl, fun _ _ h hne => configured_change h hne, fun _ hp hc =>
    ⟨exec_notConfigured (by decide) hp hc, exec_notConfigured (by decide) hp hc⟩⟩

/-! ### BUSY and ERR (R24, R25, R210) -/

theorem busy_rises (h : step s = .next t) (hs : s.busy = false) (ht : t.busy = true) :
    ∃ a w, s.schedule.head? = some (.host (.write a w)) ∧ decodeAddr s.params a = some .cmd ∧ t.opc = w ∧
      t.phase = .check := by
  obtain ⟨-, hm⟩ | ⟨a, v, -, -, rfl⟩ | ⟨a, w, tgt, hturn, -, ha, rfl⟩ | ⟨-, rfl⟩ := step_moves h
  · obtain ⟨hb, -⟩ | ⟨-, -, hb⟩ := hm.status
    · exact absurd ht (by simp [hb, hs])
    · exact absurd ht (by simp [hb])
  · exact absurd ht (by simp [takeTurn, hs])
  · by_cases hc : tgt = .cmd
    · subst hc
      exact ⟨a, w, hturn, ha, rfl, rfl⟩
    · exact absurd ht (by simp [(writeTarget_window w hc).1, takeTurn, hs])
  · cases ht

theorem busy_falls (h : step s = .next t) (hs : s.busy = true) (ht : t.busy = false) :
    (EngineTurn s ∧ s.phase ≠ .idle ∧ t.phase = .idle) ∨ s.schedule.head? = some (.host .reset) := by
  obtain ⟨hturn, hm⟩ | ⟨a, v, -, -, rfl⟩ | ⟨a, w, tgt, -, hb, -, -⟩ | ⟨hturn, -⟩ := step_moves h
  · obtain ⟨hb, -⟩ | ⟨hp, hidle, -⟩ := hm.status
    · exact absurd ht (by simp [hb, hs])
    · exact .inl ⟨hturn, hp, hidle⟩
  · exact absurd ht (by simp [takeTurn, hs])
  · exact absurd hb (by simp [hs])
  · exact .inr hturn

theorem err_change (h : step s = .next t) (hne : t.err ≠ s.err) :
    (EngineTurn s ∧ s.phase ≠ .idle ∧ t.phase = .idle ∧ t.busy = false) ∨
    (s.schedule.head? = some (.host .reset) ∧ t.err = .none) := by
  obtain ⟨hturn, hm⟩ | ⟨a, v, -, -, rfl⟩ | ⟨a, w, tgt, -, -, -, rfl⟩ | ⟨hturn, rfl⟩ := step_moves h
  · exact .inl ⟨hturn, hm.status.resolve_left fun hsame => hne hsame.2⟩
  · exact absurd rfl hne
  · exact absurd (writeTarget_err _ tgt w) hne
  · exact .inr ⟨hturn, rfl⟩

/-! ### The busy window and its record (R220, R234) -/

theorem window_opens (h : step s = .next t) (hs : s.pollDue = false) (ht : t.pollDue = true) :
    ∃ a w, s.schedule.head? = some (.host (.write a w)) ∧ decodeAddr s.params a = some .cmd ∧ t.busy = true := by
  obtain ⟨-, hm⟩ | ⟨a, v, -, -, rfl⟩ | ⟨a, w, tgt, hturn, -, ha, rfl⟩ | ⟨-, rfl⟩ := step_moves h
  · exact absurd ht (by simp [hm.pollDue, hs])
  · exact absurd ht (by simp [takeTurn, hs])
  · by_cases hc : tgt = .cmd
    · subst hc
      exact ⟨a, w, hturn, ha, rfl⟩
    · exact absurd ht (by simp [(writeTarget_window w hc).2, takeTurn, hs])
  · cases ht

theorem window_closes (h : step s = .next t) (hs : s.pollDue = true) (ht : t.pollDue = false) :
    (∃ a, s.schedule.head? = some (.host (.read a)) ∧ decodeAddr s.params a = some .status ∧ s.busy = false) ∨
    s.schedule.head? = some (.host .reset) := by
  obtain ⟨-, hm⟩ | ⟨a, v, hturn, -, rfl⟩ | ⟨a, w, tgt, -, -, -, rfl⟩ | ⟨hturn, -⟩ := step_moves h
  · exact absurd ht (by simp [hm.pollDue, hs])
  · change (s.pollDue && !(s.isStatusRead a && !s.busy)) = false at ht
    have hread : s.isStatusRead a = true ∧ s.busy = false := by simpa [hs] using ht
    exact .inl ⟨a, hturn, of_decide_eq_true hread.1, hread.2⟩
  · by_cases hc : tgt = .cmd
    · subst hc
      cases ht
    · exact absurd ht (by simp [(writeTarget_window w hc).2, takeTurn, hs])
  · exact .inr hturn

theorem hazardFree_of_engineTurn (h : EngineTurn s) : HazardFree s := by
  intro _
  obtain hs | hs := h <;> simp [hs]

theorem hazardFree_of_reset (h : s.schedule.head? = some (.host .reset)) : HazardFree s := by
  intro _
  simp [h]

theorem hazardFree_iff_of_read {a : Word} (h : s.schedule.head? = some (.host (.read a))) :
    HazardFree s ↔ (s.pollDue = true → s.isStatusRead a = true) := by
  simp [HazardFree, h]

theorem hazardFree_iff_of_write {a w : Word} (h : s.schedule.head? = some (.host (.write a w))) :
    HazardFree s ↔ s.pollDue = false := by
  simp [HazardFree, h]

/-- The record is kept, and made exactly by a step that breaks the busy rule: while BUSY = 1 such an access answers no
next state, so only the rest of the window counts. -/
theorem hazard_iff (h : step s = .next t) : t.hazard = true ↔ s.hazard = true ∨ ¬ HazardFree s := by
  obtain ⟨hturn, hm⟩ | ⟨a, v, hturn, hb, rfl⟩ | ⟨a, w, tgt, hturn, hb, -, rfl⟩ | ⟨hturn, rfl⟩ := step_moves h
  · simp [hm.hazard, hazardFree_of_engineTurn hturn]
  · rw [hazardFree_iff_of_read hturn]
    change (s.hazard || (s.pollWindow && !s.isStatusRead a)) = true ↔ _
    cases hr : s.isStatusRead a
    · have hb : s.busy = false := by simpa [hr] using hb
      simp [State.pollWindow, hb]
    · simp
  · rw [hazardFree_iff_of_write hturn, writeTarget_hazard]
    change (s.hazard || (s.busy || s.pollDue)) = true ↔ _
    simp [hb]
  · simp [hazardFree_of_reset hturn, State.resetEvent, takeTurn]

/-- Settles O44: each register by its writers. -/
theorem completionSteps : Obligations.CompletionSteps := fun _ _ h =>
  ⟨busy_rises h, busy_falls h, err_change h, window_opens h, window_closes h, hazard_iff h⟩

/-! ### IN_MEM and OUT_MEM (R34, R35, R72) -/

theorem writeTarget_inMem_change {tgt : Target} {w : Word} {a : Nat}
    (h : Memory.read (s.writeTarget tgt w).inMem a ≠ Memory.read s.inMem a) : tgt = .inMem a := by
  cases tgt with
  | inMem i =>
    by_contra hne
    exact h (Memory_read_write_ne _ _ fun e => hne (e ▸ rfl))
  | _ => exact absurd rfl h

theorem inMem_change {a : Nat} (h : step s = .next t) (hne : Memory.read t.inMem a ≠ Memory.read s.inMem a) :
    s.schedule.head? = some (.host .reset) ∨
    ∃ ad w, s.schedule.head? = some (.host (.write ad w)) ∧ decodeAddr s.params ad = some (.inMem a) := by
  obtain ⟨-, hm⟩ | ⟨ad, v, -, -, rfl⟩ | ⟨ad, w, tgt, hturn, -, ha, rfl⟩ | ⟨hturn, -⟩ := step_moves h
  · exact absurd (by rw [hm.inMem]) hne
  · exact absurd rfl hne
  · obtain rfl := writeTarget_inMem_change (s := (takeTurn s).noteAccess) hne
    exact .inr ⟨ad, w, hturn, ha⟩
  · exact .inl hturn

/-- R133, R135: group I lies below the OUT_LEN that ENCODE will report. -/
theorem group_index {a : Nat} (hle : s.iIdx.toNat ≤ s.inLen.toNat) (hi : s.iIdx ≠ s.inLen)
    (hlo : s.iIdx.toNat * s.gNum ≤ a) (hhi : a < s.iIdx.toNat * s.gNum + s.gNum) :
    a / s.gNum = s.iIdx.toNat ∧ a < s.inLen.toNat * s.gNum := by
  rw [← Nat.succ_mul] at hhi
  exact ⟨Nat.div_eq_of_lt_le hlo hhi, Nat.lt_of_lt_of_le hhi (Nat.mul_le_mul_right _ (inc_toNat hle hi).2)⟩

theorem outMem_change {a : Nat} (hinv : CoreInv s) (h : step s = .next t)
    (hne : Memory.read t.outMem a ≠ Memory.read s.outMem a) :
    s.schedule.head? = some (.host .reset) ∨
    (EngineTurn s ∧ s.phase = .encStep ∧ a / s.gNum = s.iIdx.toNat ∧ a < s.inLen.toNat * s.gNum) ∨
    (EngineTurn s ∧ s.phase = .decTb ∧ a + 1 = s.t.toNat ∧ a < s.nSteps.toNat) := by
  obtain ⟨hturn, hm⟩ | ⟨ad, v, -, -, rfl⟩ | ⟨ad, w, tgt, -, -, -, rfl⟩ | ⟨hturn, -⟩ := step_moves h
  · obtain ⟨hp, hi, hlo, hhi⟩ | ⟨hp, ht, ha⟩ := hm.outMem a hne
    · obtain ⟨-, -, hle, -⟩ := hinv.encoding hp
      exact .inr (.inl ⟨hturn, hp, group_index hle hi hlo hhi⟩)
    · have hpos := (dec_toNat ht).2
      have hle := hinv.tracing hp
      exact .inr (.inr ⟨hturn, hp, by omega, by omega⟩)
  · exact absurd rfl hne
  · exact absurd (by rw [writeTarget_outMem]; rfl) hne
  · exact .inl hturn

/-- Settles O60: IN_MEM by the host's moves, OUT_MEM by the ENGINE's two writing steps. -/
theorem bitMemoryWriters : Obligations.BitMemoryWriters := fun _ _ _ hinv h =>
  ⟨inMem_change h, outMem_change hinv h⟩

/-! ### Input elements that hold no value (R66, R139, R154) -/

/-- Settles O19: ENC_STEP reads its element, and DEC_ACS of a reachable state its group, before anything is written. -/
theorem encodeInputMustHold : Obligations.EncodeInputMustHold := by
  intro s
  refine ⟨fun hp hne hread => ?_, fun hp hreach ⟨j, hj, hread⟩ => ?_⟩
  · simp [exec, execEncode, encodeStep, hp, hne, hread]
  · obtain ⟨f, hseg⟩ := segmentCost_missing (c := shiftIn s.si s.b) hj hread
    obtain ⟨j', hj', hread', rfl⟩ := segmentCost_error hseg
    exact ⟨j', hj', hread', by simp [exec, execDecode, decodeAcs, hp, hreach, hseg]⟩

/-! ### Addresses (R61, R62) -/

/-- An address counted up within its region keeps the region and counts up the offset. -/
theorem region_offset_add {c : Word} {n : Nat} (h : c.toNat % 2 ^ 28 + n < 2 ^ 28) :
    addrRegion (c + BitVec.ofNat 32 n) = c.toNat / 2 ^ 28 ∧
    addrOffset (c + BitVec.ofNat 32 n) = c.toNat % 2 ^ 28 + n := by
  have := c.isLt
  rw [addrRegion_eq, addrOffset_eq, toNat_add_ofNat (by omega)]
  omega

theorem decodeAddr_inMem_addr {p : Params} {i : Nat} (hp : p.legal) (hi : i < p.lMax) :
    decodeAddr p (0x10000000#32 + BitVec.ofNat 32 i) = some (.inMem i) := by
  obtain ⟨-, -, ⟨-, hl⟩, -⟩ := hp
  obtain ⟨hr, ho⟩ := region_offset_add (c := 0x10000000#32) (n := i) (by simp; omega)
  simp [decodeAddr, hr, ho, hi]

theorem decodeAddr_outMem_addr {p : Params} {i : Nat} (hp : p.legal) (hi : i < p.lMax) :
    decodeAddr p (0x20000000#32 + BitVec.ofNat 32 i) = some (.outMem i) := by
  obtain ⟨-, -, ⟨-, hl⟩, -⟩ := hp
  obtain ⟨hr, ho⟩ := region_offset_add (c := 0x20000000#32) (n := i) (by simp; omega)
  simp [decodeAddr, hr, ho, hi]

/-- The single registers of R62 lie below the generator registers. -/
theorem fixedTarget_eq_none {off : Nat} (h : 0x100 ≤ off) : fixedTarget off = none := by
  obtain ⟨n, rfl⟩ := Nat.exists_eq_add_of_le' h
  rfl

theorem decodeAddr_genIn_addr {p : Params} {j : Nat} (hp : p.legal) (hj : j < p.gMax) :
    decodeAddr p (0x00000100#32 + BitVec.ofNat 32 j) = some (.genIn j) := by
  obtain ⟨-, ⟨-, hg⟩, -⟩ := hp
  obtain ⟨hr, ho⟩ := region_offset_add (c := 0x00000100#32) (n := j) (by simp; omega)
  simp [decodeAddr, hr, ho, regTarget, fixedTarget_eq_none, genTarget, hj]

theorem isStatusRead_of_target {a : Word} {tgt : Target} (ha : decodeAddr s.params a = some tgt) (h : tgt ≠ .status) :
    s.isStatusRead a = false := by
  simp [State.isStatusRead, ha, h]

/-! ### Host reads and writes while BUSY = 0 (R63, R64) -/

/-- A read of a mapped target other than STATUS. -/
theorem hostRead_target {a v : Word} {tgt : Target} (hb : s.busy = false) (ha : decodeAddr s.params a = some tgt)
    (ht : tgt ≠ .status) (hv : readWord a s = .ok v) :
    hostRead a s = .next { s.noteAccess with reads := v :: s.reads } :=
  hostRead_idle hb (isStatusRead_of_target ha ht) hv

theorem noteAccess_of_recorded (h : (s.hazard || s.pollWindow) = s.hazard) : s.noteAccess = s := by
  rw [State.noteAccess, h]

/-- Reading back what a write has just stored: the record of R234 is already made, so the read only hands over its
word. -/
theorem hostRead_writeTarget {a w v : Word} {tgt : Target} (hb : s.busy = false)
    (ha : decodeAddr s.params a = some tgt) (hs : tgt ≠ .status) (hc : tgt ≠ .cmd)
    (hv : readWord a (s.noteAccess.writeTarget tgt w) = .ok v) :
    hostRead a (s.noteAccess.writeTarget tgt w) = .next
      { s.noteAccess.writeTarget tgt w with reads := v :: (s.noteAccess.writeTarget tgt w).reads } := by
  obtain ⟨hbusy, hdue⟩ := writeTarget_window (s := s.noteAccess) w hc
  have hrec : ((s.noteAccess.writeTarget tgt w).hazard || (s.noteAccess.writeTarget tgt w).pollWindow) =
      (s.noteAccess.writeTarget tgt w).hazard := by
    rw [State.pollWindow, hbusy, hdue, writeTarget_hazard]
    exact hazard_recorded s
  have hread := hostRead_target (hbusy.trans hb) ((writeTarget_params s.noteAccess tgt w).symm ▸ ha) hs hv
  rwa [noteAccess_of_recorded hrec] at hread

/-- A register that holds `v`, and `v'` once `w` is written to it: the read, the write and the reading back. -/
theorem register_holds {a w v v' : Word} {tgt : Target} (hb : s.busy = false)
    (ha : decodeAddr s.params a = some tgt) (hs : tgt ≠ .status) (hc : tgt ≠ .cmd) (hv : readWord a s = .ok v)
    (hv' : readWord a (s.noteAccess.writeTarget tgt w) = .ok v') :
    hostRead a s = .next { s.noteAccess with reads := v :: s.reads } ∧
    hostWrite a w s = .next (s.noteAccess.writeTarget tgt w) ∧
    hostRead a (s.noteAccess.writeTarget tgt w) = .next
      { s.noteAccess.writeTarget tgt w with reads := v' :: (s.noteAccess.writeTarget tgt w).reads } :=
  ⟨hostRead_target hb ha hs hv, hostWrite_of hb ha, hostRead_writeTarget hb ha hs hc hv'⟩

/-! ### The staged registers (R26, R30, R31) -/

/-- A CTRL_IN or CTRL word reads as its bit 0 (R30). -/
theorem ctrlWord_eq (w : Word) : ctrlWord w = if w.getLsbD 0 then 1 else 0 := by
  rw [ctrlWord, BitVec.and_one_eq_setWidth_ofBool_getLsbD]
  cases w.getLsbD 0 <;> rfl

theorem ctrlWord_bit0Word (w : Word) : ctrlWord (bit0Word w) = if w.getLsbD 0 then 1 else 0 := by
  rw [ctrlWord_eq]
  simp [bit0Word]

theorem readWord_genIn {a : Word} {j : Nat} (ha : decodeAddr s.params a = some (.genIn j)) :
    readWord a s = .ok (s.genIn.getD j 0) := by
  rw [readWord, ha]

/-- Settles O48: each staged register is a mapped target that holds what was written; of CTRL_IN that is bit 0, and of
GEN_IN the other registers stay. -/
theorem stagedRegistersHold : Obligations.StagedRegistersHold := by
  intro s w hb
  refine ⟨register_holds (tgt := .kIn) hb rfl (by decide) (by decide) rfl rfl,
    register_holds (tgt := .gIn) hb rfl (by decide) (by decide) rfl rfl,
    register_holds (tgt := .inLen) hb rfl (by decide) (by decide) rfl rfl, ?_, fun j hinv hj => ?_⟩
  · obtain ⟨hread, hwrite, hback⟩ := register_holds (s := s) (w := w) (tgt := .ctrlIn) (a := 4) hb rfl (by decide)
      (by decide) (congrArg Except.ok (ctrlWord_eq s.ctrlIn)) (congrArg Except.ok (ctrlWord_bit0Word w))
    exact ⟨hread, _, hwrite, rfl, hback⟩
  · have ha := decodeAddr_genIn_addr hinv.legal hj
    have hset : (s.genIn.set j w).getD j 0 = w := by simp [hinv.genInLength, hj]
    have hstored := readWord_genIn (s := s.noteAccess.writeTarget (.genIn j) w) ha
    obtain ⟨hread, hwrite, hback⟩ := register_holds hb ha (by simp) (by simp) (readWord_genIn ha)
      (hstored.trans (congrArg Except.ok hset))
    exact ⟨hread, _, hwrite, rfl, hback, fun j' hne => by simp [State.writeTarget, List.getElem?_set_ne hne.symm]⟩

/-! ### Bit memory elements (R36, R102) -/

theorem readWord_inMem {a : Word} {i : Nat} (ha : decodeAddr s.params a = some (.inMem i)) :
    readWord a s = elementWord a (Memory.read s.inMem i) := by
  rw [readWord, ha]

theorem readWord_outMem {a : Word} {i : Nat} (ha : decodeAddr s.params a = some (.outMem i)) :
    readWord a s = elementWord a (Memory.read s.outMem i) := by
  rw [readWord, ha]

theorem hostRead_noValue {a : Word} (hb : s.busy = false) (h : readWord a s = elementWord a none) :
    hostRead a s = .fault (.hostReadNoValue a) := by
  simp [hostRead, hb, h, elementWord]

theorem bit_setWidth (x : Bit) : x.setWidth 32 = if x = 1 then 1 else 0 := by
  revert x
  decide

theorem hostRead_element {a : Word} {x : Bit} {tgt : Target} (hb : s.busy = false)
    (ha : decodeAddr s.params a = some tgt) (hs : tgt ≠ .status) (h : readWord a s = elementWord a (some x)) :
    hostRead a s = .next { s.noteAccess with reads := (if x = 1 then 1 else 0) :: s.reads } :=
  hostRead_target hb ha hs (h.trans (congrArg Except.ok (bit_setWidth x)))

/-- Settles O51: an element's address selects it, and the read answers what the element holds. -/
theorem elementReads : Obligations.ElementReads := by
  intro s i hp hb hi
  have hin := decodeAddr_inMem_addr hp hi
  have hout := decodeAddr_outMem_addr hp hi
  exact ⟨fun hr => hostRead_noValue hb (hr ▸ readWord_inMem hin),
    fun hr => hostRead_noValue hb (hr ▸ readWord_outMem hout),
    fun x hr => hostRead_element hb hin (by simp) (hr ▸ readWord_inMem hin),
    fun x hr => hostRead_element hb hout (by simp) (hr ▸ readWord_outMem hout)⟩

end Sys2Proof.Proofs
end

section
/-! PROOFS. The frames of the three commands (O13, O23, O42): which memory each phase writes, and that no move of
the ENGINE touches the HOST agent's data. -/

namespace Sys2Proof.Proofs

open Sys2Proof.Machine Sys2Proof.Safety Sys2Proof.Laws

variable {s t : State}

/-! ### CONFIGURE and ENCODE (R115, R116, R133) -/

/-- Settles O13: CHECK moves the sequencer only, and CFG_COMMIT writes what the frame exempts. -/
theorem configureFrame : Obligations.ConfigureFrame := by
  intro s t h
  obtain ⟨hp, rfl⟩ | ⟨hp, -, rfl⟩ | ⟨hp, -, -, rfl⟩ | ⟨hp, -, -, rfl⟩ | ⟨hp, rfl⟩ := execConfigure_cases h <;>
    simp [SameStaged, SameActive, SameHost, SameInput, SameOutput, SameTrellis, State.costCell, State.bpCell, hp]

/-- R133, R135: of ENCODE only an ENC_STEP writes OUT_MEM, and only group I. -/
theorem execEncode_outMem (h : execEncode s = .next t) (a : Nat) :
    (s.phase = .encStep ∧ s.iIdx.toNat * s.gNum ≤ a ∧ a < s.iIdx.toNat * s.gNum + s.gNum) ∨
    Memory.read t.outMem a = Memory.read s.outMem a := by
  refine or_iff_not_imp_right.2 fun hne => ?_
  have hp : s.phase ≠ .idle := fun hp => by
    cases (exec_of_idle .encode hp).symm.trans h
    exact hne rfl
  obtain ⟨henc, -, hgroup⟩ | ⟨htb, -⟩ := (engineMove_execEncode hp h).outMem a hne
  · exact ⟨henc, hgroup⟩
  · simp [execEncode, htb] at h

/-- Settles O23: OUT_MEM by its one writer, and the registers case by case. -/
theorem encodeFrame : Obligations.EncodeFrame := by
  intro s t h
  refine ⟨?_, ?_, ?_, ?_, ?_, ?_, ?_, ?_, ?_, ?_, execEncode_outMem h, ?_⟩ <;>
    obtain ⟨hp, rfl⟩ | ⟨hp, -, rfl⟩ | ⟨hp, -, -, rfl⟩ | ⟨hp, -, -, rfl⟩ | ⟨hp, -, rfl⟩ | ⟨hp, -, x, -, rfl⟩ :=
      execEncode_cases h <;>
    simp [SameStaged, SameActive, SameHost, SameInput, SameOutput, SameTrellis, State.costCell, State.bpCell, hp]

/-! ### DECODE (R153, R156, R183) -/

/-- R153: DEC_INIT writes no cell outside the running trellis. -/
theorem initTrellis_cell_outside {a : Nat} (h : ¬ a < s.trellisSize) :
    s.initTrellis.costCell a = s.costCell a ∧ s.initTrellis.bpCell a = s.bpCell a := by
  have hsize : 0 < s.trellisSize := Nat.mul_pos (Nat.succ_pos _) (stateCount_pos s)
  rw [initTrellis_costCell, initTrellis_bpCell, if_neg (by omega), if_neg h, if_neg h]
  exact ⟨rfl, rfl⟩

/-- R156: compare-and-select writes the cell of `(T+1, ns)` only. -/
theorem select_cell_ne {ns c a : Nat} (h : a ≠ s.cellIndex (s.t.toNat + 1) ns) :
    (s.select ns c).costCell a = s.costCell a ∧ (s.select ns c).bpCell a = s.bpCell a := by
  unfold State.select
  split
  · simp [State.costCell, State.bpCell, Memory_read_write_ne _ _ h]
  · exact ⟨rfl, rfl⟩

/-- R183: of DECODE only a DEC_TB writes OUT_MEM, and only element `T - 1`. -/
theorem execDecode_outMem (h : execDecode s = .next t) (a : Nat) :
    (s.phase = .decTb ∧ a = s.t.toNat - 1) ∨ Memory.read t.outMem a = Memory.read s.outMem a := by
  refine or_iff_not_imp_right.2 fun hne => ?_
  have hp : s.phase ≠ .idle := fun hp => by
    cases (exec_of_idle .decode hp).symm.trans h
    exact hne rfl
  obtain ⟨henc, -⟩ | ⟨htb, -, ha⟩ := (engineMove_execDecode hp h).outMem a hne
  · simp [execDecode, henc] at h
  · exact ⟨htb, ha⟩

/-- R153, R156: of DECODE only DEC_INIT and DEC_ACS write trellis cells: those of the running trellis, and the one the
candidate leads to. -/
theorem execDecode_cells (h : execDecode s = .next t) (a : Nat) :
    (s.phase = .decInit ∧ a < (s.nSteps.toNat + 1) * s.stateCount) ∨
    (s.phase = .decAcs ∧ a = s.cellIndex (s.t.toNat + 1) (s.nextState (shiftIn s.si s.b))) ∨
    (t.costCell a = s.costCell a ∧ t.bpCell a = s.bpCell a) := by
  obtain ⟨-, rfl⟩ | ⟨-, -, rfl⟩ | ⟨-, -, -, rfl⟩ | ⟨-, -, -, -, rfl⟩ | ⟨-, -, -, -, rfl⟩ | ⟨hinit, -, rfl⟩ |
    ⟨hinit, -, rfl⟩ | ⟨-, -, rfl⟩ | ⟨hacs, -, seg, -, rfl⟩ | ⟨-, rfl⟩ | ⟨-, -, rfl⟩ | ⟨-, -, -, rfl⟩ :=
    execDecode_cases h
  · exact .inr (.inr ⟨rfl, rfl⟩)
  · exact .inr (.inr ⟨rfl, rfl⟩)
  · exact .inr (.inr ⟨rfl, rfl⟩)
  · exact .inr (.inr ⟨rfl, rfl⟩)
  · exact .inr (.inr ⟨rfl, rfl⟩)
  · exact (Classical.em _).imp (fun ha => ⟨hinit, ha⟩) fun ha => .inr (initTrellis_cell_outside ha)
  · exact (Classical.em _).imp (fun ha => ⟨hinit, ha⟩) fun ha => .inr (initTrellis_cell_outside ha)
  · exact .inr (.inr ⟨rfl, rfl⟩)
  · exact .inr ((Classical.em _).imp (fun ha => ⟨hacs, ha⟩) select_cell_ne)
  · exact .inr (.inr ⟨rfl, rfl⟩)
  · exact .inr (.inr ⟨rfl, rfl⟩)
  · exact .inr (.inr ⟨rfl, rfl⟩)

/-- Settles O42: OUT_MEM and the trellis memories by their writers, and the registers case by case. -/
theorem decodeFrame : Obligations.DecodeFrame := by
  intro s t h
  refine ⟨?_, ?_, ?_, ?_, ?_, ?_, execDecode_outMem h, execDecode_cells h, ?_⟩ <;>
    obtain ⟨hp, rfl⟩ | ⟨hp, -, rfl⟩ | ⟨hp, -, -, rfl⟩ | ⟨hp, -, -, -, rfl⟩ | ⟨hp, -, -, -, rfl⟩ | ⟨hp, -, rfl⟩ |
      ⟨hp, -, rfl⟩ | ⟨hp, -, rfl⟩ | ⟨hp, -, seg, -, rfl⟩ | ⟨hp, rfl⟩ | ⟨hp, -, rfl⟩ | ⟨hp, -, -, rfl⟩ :=
      execDecode_cases h <;>
    simp [SameStaged, SameActive, SameHost, SameInput, hp]

/-! ### The HOST agent's data (R14, R49) -/

theorem exec_sameHost {i : Instr} (h : exec i s = .next t) : SameHost s t := by
  cases i with
  | configure =>
    obtain ⟨-, hhost, -⟩ := configureFrame s t h
    exact hhost
  | encode =>
    obtain ⟨-, -, hhost, -⟩ := encodeFrame s t h
    exact hhost
  | decode =>
    obtain ⟨-, -, hhost, -⟩ := decodeFrame s t h
    exact hhost

theorem engineStep_sameHost (h : engineStep s = .next t) : SameHost s t := by
  obtain ⟨-, rfl⟩ | ⟨-, -, rfl⟩ | ⟨-, i, -, he⟩ | ⟨i, -, he⟩ := engineStep_cases h
  · exact ⟨rfl, rfl, rfl, rfl, rfl⟩
  · exact ⟨rfl, rfl, rfl, rfl, rfl⟩
  · exact exec_sameHost he
  · exact exec_sameHost he

end Sys2Proof.Proofs
end

section
/-! PROOFS. The HOST's address space (O45, O46, O49, O50, O52): the address map and its inverse, accesses to
unmapped addresses, and what reads and writes leave unchanged. -/

namespace Sys2Proof.Proofs

open Sys2Proof.Machine Sys2Proof.Safety Sys2Proof.Laws

variable {s t : State}

/-! ### From an address to its target and back (R61, R62) -/

theorem decodeAddr_gen_addr {p : Params} {j : Nat} (hp : p.legal) (hj : j < p.gMax) :
    decodeAddr p (0x00000200#32 + BitVec.ofNat 32 j) = some (.gen j) := by
  obtain ⟨-, ⟨-, hg⟩, -⟩ := hp
  obtain ⟨hr, ho⟩ := region_offset_add (c := 0x00000200#32) (n := j) (by simp; omega)
  have hfix : fixedTarget (0x200 + j) = none := fixedTarget_eq_none (by omega)
  have hnot : ¬ 0x200 + j < 0x100 + p.gMax := by omega
  simp [decodeAddr, hr, ho, regTarget, hfix, genTarget, hj, hnot]

theorem addr_of_fixedTarget {off : Nat} {tgt : Target} (h : fixedTarget off = some tgt) : tgt.addr.toNat = off := by
  unfold fixedTarget at h
  split at h <;> cases h <;> rfl

theorem addr_of_genTarget {p : Params} {off : Nat} {tgt : Target} (hg : p.gMax ≤ 256)
    (h : genTarget p off = some tgt) : tgt.addr.toNat = off := by
  unfold genTarget at h
  split_ifs at h <;> cases h <;> rw [Target.addr, toNat_add_ofNat (by simp; omega)] <;> simp <;> omega

theorem addr_of_regTarget {p : Params} {off : Nat} {tgt : Target} (hg : p.gMax ≤ 256)
    (h : regTarget p off = some tgt) : tgt.addr.toNat = off := by
  rw [regTarget, Option.or_eq_some_iff] at h
  obtain hfix | ⟨-, hgen⟩ := h
  · exact addr_of_fixedTarget hfix
  · exact addr_of_genTarget hg hgen

theorem addr_of_decodeAddr {p : Params} {a : Word} {tgt : Target} (hp : p.legal) (h : decodeAddr p a = some tgt) :
    tgt.addr = a := by
  obtain ⟨-, ⟨-, hg⟩, -⟩ := hp
  have hlt := a.isLt
  rw [decodeAddr, addrRegion_eq, addrOffset_eq] at h
  apply BitVec.eq_of_toNat_eq
  split_ifs at h with hreg hin hi hout hi
  · rw [addr_of_regTarget hg h]
    omega
  · cases h
    rw [Target.addr, toNat_add_ofNat (by simp; omega)]
    simp; omega
  · cases h
    rw [Target.addr, toNat_add_ofNat (by simp; omega)]
    simp; omega

/-- Settles O45: the inverse by region, and the map by kind of target. -/
theorem addressMap : Obligations.AddressMap := fun _ hp =>
  ⟨fun _ _ h => addr_of_decodeAddr hp h, fun tgt h => by fin_cases h <;> rfl,
    fun _ hj => ⟨decodeAddr_genIn_addr hp hj, decodeAddr_gen_addr hp hj⟩,
    fun _ hi => ⟨decodeAddr_inMem_addr hp hi, decodeAddr_outMem_addr hp hi⟩⟩

/-! ### Unmapped addresses (R67) -/

theorem regTarget_eq_none {p : Params} {off : Nat} (hlow : ¬ off ≤ 0x006) (hactive : ¬ (0x008 ≤ off ∧ off ≤ 0x00A))
    (hgenIn : ¬ (0x100 ≤ off ∧ off < 0x100 + p.gMax)) (hgen : ¬ (0x200 ≤ off ∧ off < 0x200 + p.gMax)) :
    regTarget p off = none := by
  have hfix : fixedTarget off = none := by
    unfold fixedTarget
    split
    any_goals omega
    rfl
  rw [regTarget, hfix, genTarget, if_neg hgenIn, if_neg hgen, Option.or_none]

/-- The fault of an access to an unmapped address (R220 (c), (d), log entry 15). -/
theorem access_of_unmapped {a : Word} (w : Word) (h : decodeAddr s.params a = none) :
    hostRead a s = .fault (if s.busy then .busyHazard else .unmappedAccess a) ∧
    hostWrite a w s = .fault (if s.busy then .busyHazard else .unmappedAccess a) := by
  have hr : s.isStatusRead a = false := by simp [State.isStatusRead, h]
  cases hb : s.busy <;> simp [hostRead, hostWrite, readWord, hr, h, hb]

/-- Settles O46: in each of the three ranges the address map has no target. -/
theorem unmappedAccessFaults : Obligations.UnmappedAccessFaults := by
  intro s a w hp
  obtain ⟨-, -, ⟨-, hl⟩, -⟩ := hp
  have hlt := a.isLt
  refine ⟨fun hr hlow hactive hgenIn hgen => access_of_unmapped w ?_, fun hlo hhi => access_of_unmapped w ?_,
    fun hlo => access_of_unmapped w ?_⟩ <;> rw [decodeAddr, addrRegion_eq, addrOffset_eq]
  · have ho : a.toNat % 2 ^ 28 = a.toNat := Nat.mod_eq_of_lt hr
    rw [if_pos (by omega), ho]
    exact regTarget_eq_none hlow hactive hgenIn hgen
  · rw [if_neg (by omega), if_pos (by omega), if_neg (by omega)]
  · rw [if_neg (by omega), if_neg (by omega)]
    by_cases hout : a.toNat / 2 ^ 28 = 2
    · rw [if_pos hout, if_neg (by omega)]
    · rw [if_neg hout]

/-! ### Reads (R63, R71) -/

/-- Settles O52: a read only observes; while BUSY = 1 it is a STATUS read, so only R234's window beyond BUSY counts. -/
theorem readsChangeNoCoreState : Obligations.ReadsChangeNoCoreState := by
  intro s t a h
  obtain ⟨hb, v, hv, rfl⟩ := hostRead_cases h
  have hstatus : a = 0x00000001#32 ↔ s.isStatusRead a = true := (isStatusRead_iff s a).symm
  refine ⟨rfl, rfl, ⟨v, hv, rfl⟩, ?_⟩
  simp only [hstatus, observe_pollDue, observe_hazard]
  cases hr : s.isStatusRead a with
  | false =>
    have hidle : s.busy = false := by simpa [hr] using hb
    simp [State.pollWindow, hidle]
  | true => cases s.busy <;> simp

/-- A STATUS read while BUSY = 0 closes R234's window. -/
theorem hostRead_status (hb : s.busy = false) :
    hostRead 0x00000001#32 s = .next { s with reads := s.statusWord :: s.reads, pollDue := false } := by
  have hr : s.isStatusRead 0x00000001#32 = true := (isStatusRead_iff s _).2 rfl
  rw [hostRead_of (v := s.statusWord) (fun _ => hr) rfl, State.observe, hr, hb]
  simp

theorem readWord_gen {a : Word} {j : Nat} (ha : decodeAddr s.params a = some (.gen j)) :
    readWord a s = .ok (s.gen.getD j 0) := by
  rw [readWord, ha]

/-! ### Reserved bits (R30, R64, R95) -/

/-- Bits 2, 3 and 8 to 31 of the STATUS word are reserved. -/
theorem statusWord_reserved (s : State) {i : Nat} (h : i = 2 ∨ i = 3 ∨ 8 ≤ i) : s.statusWord.getLsbD i = false := by
  change (0#24 ++ s.err.number ++ 0#2 ++ BitVec.ofBool s.busy ++ BitVec.ofBool s.configured).getLsbD i = false
  simp only [BitVec.getLsbD_append, BitVec.getLsbD_zero]
  obtain rfl | rfl | h := h
  · rfl
  · rfl
  · have hnum : s.err.number.getLsbD (i - 4) = false := BitVec.getLsbD_of_ge _ _ (by omega)
    have hlow : ¬ i < 1 ∧ ¬ i - 1 < 1 ∧ ¬ i - 1 - 1 < 2 := by omega
    simp [hlow, Nat.sub_sub, hnum]

theorem ctrlWord_reserved (w : Word) {i : Nat} (hi : 1 ≤ i) : (ctrlWord w).getLsbD i = false := by
  have hne : i ≠ 0 := by omega
  simp [ctrlWord, hne]

/-- Bit 0 of a written word. -/
theorem extract_bit0 (w : Word) : w.extractLsb' 0 1 = BitVec.ofBool (w.getLsbD 0) := by
  ext i hi
  obtain rfl : i = 0 := by omega
  simp

theorem bit0Word_congr {w w' : Word} (h : w'.getLsbD 0 = w.getLsbD 0) : bit0Word w' = bit0Word w := by
  rw [bit0Word, bit0Word, extract_bit0, extract_bit0, h]

theorem extract_bit0_setWidth (w : Word) : (w.extractLsb' 0 1).setWidth 32 = if w.getLsbD 0 then 1#32 else 0#32 := by
  rw [extract_bit0]
  cases w.getLsbD 0 <;> rfl

/-! ### Writes (R64, R65, R68) -/

/-- Settles O49: each address by its target; a write of a read-only target leaves but the record of the access. -/
theorem readOnlyWritesIgnored : Obligations.ReadOnlyWritesIgnored := by
  intro s w hp hb
  refine ⟨hostWrite_of (tgt := .status) hb rfl, hostWrite_of (tgt := .outLen) hb rfl, hostWrite_of (tgt := .k) hb rfl,
    hostWrite_of (tgt := .g) hb rfl, hostWrite_of (tgt := .ctrl) hb rfl,
    fun j hj => hostWrite_of hb (decodeAddr_gen_addr hp hj), fun i hi => hostWrite_of hb (decodeAddr_outMem_addr hp hi),
    hostRead_target (tgt := .cmd) hb rfl (by simp) rfl,
    ⟨hostRead_status hb, statusWord_reserved s (.inl rfl), statusWord_reserved s (.inr (.inl rfl)),
      fun i hi => statusWord_reserved s (.inr (.inr hi))⟩,
    ⟨_, hostRead_target (tgt := .ctrlIn) hb rfl (by simp) rfl, fun i hi => ctrlWord_reserved _ hi⟩, fun w' hw => ?_,
    hostRead_target (tgt := .outLen) hb rfl (by simp) rfl, hostRead_target (tgt := .k) hb rfl (by simp) rfl,
    hostRead_target (tgt := .g) hb rfl (by simp) rfl,
    hostRead_target (tgt := .ctrl) hb rfl (by simp) (congrArg Except.ok (ctrlWord_eq s.ctrl)),
    fun j hj => hostRead_target hb (decodeAddr_gen_addr hp hj) (by simp) (readWord_gen (decodeAddr_gen_addr hp hj))⟩
  rw [hostWrite_of (tgt := .ctrlIn) hb rfl, hostWrite_of (tgt := .ctrlIn) hb rfl, State.writeTarget, State.writeTarget,
    bit0Word_congr hw]

/-- Settles O50: the write stores bit 0 at element `i`, which the read then finds. -/
theorem inputBitMasked : Obligations.InputBitMasked := by
  intro s w i hp hb hi
  have ha := decodeAddr_inMem_addr hp hi
  have hv : readWord (0x10000000#32 + BitVec.ofNat 32 i) (s.noteAccess.writeTarget (.inMem i) w) =
      .ok (if w.getLsbD 0 then 1 else 0) := by
    rw [readWord_inMem (s := s.noteAccess.writeTarget (.inMem i) w) ha, State.writeTarget, Memory_read_write_same,
      elementWord]
    exact congrArg Except.ok (extract_bit0_setWidth w)
  exact ⟨_, hostWrite_of hb ha, hostRead_writeTarget hb ha (by simp) (by simp) hv,
    fun a hne => Memory_read_write_ne _ _ hne, rfl⟩

end Sys2Proof.Proofs
end

section
/-! PROOFS. What the host can see (O54): the ENGINE moves alike whatever the HOST agent's data, so STATUS polls do not
change a run; a run that is over stays so; and the end state is what the addresses read as. -/

namespace Sys2Proof.Proofs

open Sys2Proof.Machine Sys2Proof.Safety Sys2Proof.Laws

variable {s t u : State}

/-! ### The ENGINE does not see the HOST agent's data (R49, R75) -/

/-- An outcome without the HOST agent's data in its next state. -/
def eraseOutcome : Host.Outcome State Fault Refusal → Host.Outcome State Fault Refusal
  | .next s => .next (eraseHost s)
  | .fault f => .fault f
  | .refused r => .refused r

theorem eraseOutcome_eq_next {o : Host.Outcome State Fault Refusal} (h : eraseOutcome o = .next t) :
    ∃ u, o = .next u ∧ eraseHost u = t := by
  cases o with
  | next u => exact ⟨u, rfl, Host.Outcome.next.inj h⟩
  | fault f => cases h
  | refused r => cases h

theorem eraseHost_phase (s : State) : (eraseHost s).phase = s.phase := rfl

theorem segmentCost_eraseHost (s : State) (c base n : Nat) :
    (eraseHost s).segmentCost c base n = s.segmentCost c base n := by
  induction n with
  | zero => rfl
  | succ n ih =>
    rw [State.segmentCost, ih]
    rfl

theorem writeGroup_eraseHost (s : State) (c base n : Nat) (m : Memory Bit) :
    (eraseHost s).writeGroup c base n m = s.writeGroup c base n m := by
  induction n with
  | zero => rfl
  | succ n ih =>
    rw [State.writeGroup, ih]
    rfl

theorem encodeBit_eraseHost (s : State) (x : Bit) : (eraseHost s).encodeBit x = eraseHost (s.encodeBit x) := by
  rw [State.encodeBit, writeGroup_eraseHost]
  rfl

theorem select_eraseHost (s : State) (ns c : Nat) : (eraseHost s).select ns c = eraseHost (s.select ns c) := by
  unfold State.select
  rw [apply_ite eraseHost]
  rfl

theorem advance_eraseHost (s : State) : (eraseHost s).advance = eraseHost s.advance := rfl

theorem configureCheck_eraseHost (s : State) : configureCheck (eraseHost s) = eraseOutcome (configureCheck s) := by
  unfold configureCheck
  rw [apply_ite eraseOutcome, apply_ite eraseOutcome]
  rfl

theorem encodeCheck_eraseHost (s : State) : encodeCheck (eraseHost s) = eraseOutcome (encodeCheck s) := by
  unfold encodeCheck
  rw [apply_ite eraseOutcome, apply_ite eraseOutcome]
  rfl

theorem encodeStep_eraseHost (s : State) : encodeStep (eraseHost s) = eraseOutcome (encodeStep s) := by
  unfold encodeStep
  rw [apply_ite eraseOutcome]
  refine congrArg (ite (s.iIdx = s.inLen) _) ?_
  change (match Memory.read s.inMem s.iIdx.toNat with | none => _ | some x => _) = _
  cases Memory.read s.inMem s.iIdx.toNat with
  | none => rfl
  | some x => exact congrArg _ (encodeBit_eraseHost s x)

theorem decodeCheck_eraseHost (s : State) : decodeCheck (eraseHost s) = eraseOutcome (decodeCheck s) := by
  unfold decodeCheck
  rw [apply_ite eraseOutcome, apply_ite eraseOutcome, apply_ite eraseOutcome]
  rfl

theorem decodeInit_eraseHost (s : State) : decodeInit (eraseHost s) = eraseOutcome (decodeInit s) := by
  unfold decodeInit
  rw [apply_ite eraseOutcome]
  rfl

theorem decodeAcs_unreachable (h : s.costAt s.t.toNat s.si = s.inf) : decodeAcs s = .next s.advance := by
  rw [decodeAcs, if_pos h]

theorem decodeAcs_error {f : Fault} (h : s.costAt s.t.toNat s.si ≠ s.inf)
    (hseg : s.segmentCost (shiftIn s.si s.b) (s.t.toNat * s.gNum) s.gNum = .error f) : decodeAcs s = .fault f := by
  simp [decodeAcs, h, hseg]

theorem decodeAcs_ok {seg : Nat} (h : s.costAt s.t.toNat s.si ≠ s.inf)
    (hseg : s.segmentCost (shiftIn s.si s.b) (s.t.toNat * s.gNum) s.gNum = .ok seg) :
    decodeAcs s =
      .next (s.select (s.nextState (shiftIn s.si s.b)) (satadd s.inf (s.costAt s.t.toNat s.si) seg)).advance := by
  simp [decodeAcs, h, hseg]

theorem decodeAcs_eraseHost (s : State) : decodeAcs (eraseHost s) = eraseOutcome (decodeAcs s) := by
  by_cases h : s.costAt s.t.toNat s.si = s.inf
  · rw [decodeAcs_unreachable h, decodeAcs_unreachable (s := eraseHost s) h]
    rfl
  · have hsame := segmentCost_eraseHost s (shiftIn s.si s.b) (s.t.toNat * s.gNum) s.gNum
    cases hseg : s.segmentCost (shiftIn s.si s.b) (s.t.toNat * s.gNum) s.gNum with
    | error f =>
      rw [decodeAcs_error h hseg, decodeAcs_error (s := eraseHost s) h (hsame.trans hseg)]
      rfl
    | ok seg =>
      rw [decodeAcs_ok h hseg, decodeAcs_ok (s := eraseHost s) h (hsame.trans hseg), select_eraseHost,
        advance_eraseHost]
      rfl

theorem decodeTraceback_eraseHost (s : State) : decodeTraceback (eraseHost s) = eraseOutcome (decodeTraceback s) := by
  unfold decodeTraceback
  simp only [apply_ite eraseOutcome]
  rfl

/-- Past its acceptance, which alone opens R234's window, a command works on the core's own state. -/
theorem exec_eraseHost (i : Instr) (h : s.phase ≠ .idle) : exec i (eraseHost s) = eraseOutcome (exec i s) := by
  cases i with
  | configure =>
    simp only [exec, execConfigure, eraseHost_phase, configureCheck_eraseHost]
    cases hp : s.phase with
    | idle => exact absurd hp h
    | _ => rfl
  | encode =>
    simp only [exec, execEncode, eraseHost_phase, encodeCheck_eraseHost, encodeStep_eraseHost]
    cases hp : s.phase with
    | idle => exact absurd hp h
    | _ => rfl
  | decode =>
    simp only [exec, execDecode, eraseHost_phase, decodeCheck_eraseHost, decodeInit_eraseHost, decodeAcs_eraseHost,
      decodeTraceback_eraseHost]
    cases hp : s.phase with
    | idle => exact absurd hp h
    | _ => rfl

theorem engineStep_eraseHost (s : State) : engineStep (eraseHost s) = eraseOutcome (engineStep s) := by
  simp only [engineStep, eraseHost_phase]
  cases hp : s.phase with
  | idle => rfl
  | check =>
    change engineCheck (eraseHost s) = eraseOutcome (engineCheck s)
    rw [engineCheck, engineCheck, show (eraseHost s).opc = s.opc from rfl]
    cases decodeWord s.opc with
    | ok i => exact exec_eraseHost i (by simp [hp])
    | error e => rfl
  | _ => exact exec_eraseHost _ (by simp [hp])

/-- Two states that differ in the HOST agent's data only move alike. -/
theorem engineStep_of_eraseHost_eq {s' : State} (he : eraseHost s' = eraseHost s) (h : engineStep s = .next t) :
    ∃ t', engineStep s' = .next t' ∧ eraseHost t' = eraseHost t := by
  apply eraseOutcome_eq_next
  rw [← engineStep_eraseHost, he, engineStep_eraseHost, h, eraseOutcome]

/-! ### Runs -/

theorem engineStep_of_engineRun {n : Nat} (h : engineRun (n + 1) s = .next t) :
    ∃ u, engineStep s = .next u ∧ engineRun n u = .next t := by
  rw [engineRun] at h
  cases hu : engineStep s with
  | next u => exact ⟨u, rfl, by rwa [hu] at h⟩
  | fault f => simp [hu] at h
  | refused r => simp [hu] at h

theorem step_of_core_run {M : Host.Core} {s t : M.State} {n : Nat} (h : M.run (n + 1) s = .next t) :
    ∃ u, M.step s = .next u ∧ M.run n u = .next t := by
  rw [Host.Core.run] at h
  cases hu : M.step s with
  | next u => exact ⟨u, rfl, by rwa [hu] at h⟩
  | fault f => simp [hu] at h
  | refused r => simp [hu] at h

theorem core_run_succ {M : Host.Core} {s u : M.State} (n : Nat) (h : M.step s = .next u) :
    M.run (n + 1) s = M.run n u := by
  rw [Host.Core.run, h]

theorem core_run_add {M : Host.Core} {s t : M.State} {n : Nat} (k : Nat) (h : M.run n s = .next t) :
    M.run (n + k) s = M.run k t := by
  induction n generalizing s with
  | zero =>
    cases h
    rw [Nat.zero_add]
  | succ n ih =>
    obtain ⟨u, hu, h⟩ := step_of_core_run h
    rw [Nat.add_right_comm, core_run_succ _ hu, ih h]

/-! ### STATUS polls (R75, R234) -/

/-- Which address is STATUS does not depend on the state. -/
theorem pollOrEngine_of_pollOrEngine {turn : Turn} (h : PollOrEngine s turn) : PollOrEngine t turn :=
  h.imp id fun ⟨a, hturn, ha⟩ => ⟨a, hturn, (isStatusRead_iff t a).2 ((isStatusRead_iff s a).1 ha)⟩

/-- A STATUS poll changes the HOST agent's data only and is no hazard. -/
theorem step_poll {a : Word} {l : List Turn} (hl : s.schedule = .host (.read a) :: l) (ha : s.isStatusRead a = true) :
    ∃ u, step s = .next u ∧ eraseHost u = eraseHost s ∧ u.schedule = l ∧ u.hazard = s.hazard := by
  obtain rfl := (isStatusRead_iff s a).1 ha
  have hturn : s.schedule.head? = some (.host (.read 1)) := by rw [hl, List.head?_cons]
  refine ⟨(takeTurn s).observe 1 s.statusWord, ?_, rfl, ?_, ?_⟩
  · rw [step_of_hostTurn hturn]
    exact hostRead_of (fun _ => ha) rfl
  · simp [takeTurn, hl]
  · change (s.hazard || (s.pollWindow && !s.isStatusRead 1)) = s.hazard
    rw [ha, Bool.not_true, Bool.and_false, Bool.or_false]

/-- An ENGINE turn moves the core as the ENGINE alone does, and is no hazard. -/
theorem step_engine {l : List Turn} {s' : State} (hl : s'.schedule = .engine :: l) (he : eraseHost s' = eraseHost s)
    (h : engineStep s = .next t) :
    ∃ u, step s' = .next u ∧ eraseHost u = eraseHost t ∧ u.schedule = l ∧ u.hazard = s'.hazard := by
  obtain ⟨u, hu, heu⟩ := engineStep_of_eraseHost_eq (s' := takeTurn s') he h
  obtain ⟨-, -, hsched, -, hhazard⟩ := engineStep_sameHost hu
  have hturn : EngineTurn s' := .inr (by rw [hl, List.head?_cons])
  exact ⟨u, (step_of_engineTurn hturn).trans hu, heu, hsched.trans (by simp [takeTurn, hl]), hhazard⟩

/-- By induction on the schedule: `s'` runs through it as `s` runs through its ENGINE turns alone. -/
theorem run_of_engineRun {l : List Turn} {s' : State} (hl : s'.schedule = l)
    (hpolls : ∀ turn ∈ l, PollOrEngine s' turn) (he : eraseHost s' = eraseHost s)
    (h : engineRun (l.countP (· = .engine)) s = .next t) :
    ∃ u, core.run l.length s' = .next u ∧ eraseHost u = eraseHost t ∧ u.hazard = s'.hazard := by
  induction l generalizing s s' with
  | nil =>
    cases h
    exact ⟨s', rfl, he, rfl⟩
  | cons turn l ih =>
    obtain ⟨hturn, hrest⟩ := List.forall_mem_cons.1 hpolls
    have hpolls' : ∀ (v : State), ∀ turn ∈ l, PollOrEngine v turn := fun _ turn hm =>
      pollOrEngine_of_pollOrEngine (hrest turn hm)
    obtain rfl | ⟨a, rfl, ha⟩ := hturn
    · rw [List.countP_cons_of_pos (by simp)] at h
      obtain ⟨r, hr, h⟩ := engineStep_of_engineRun h
      obtain ⟨v, hv, hev, hsched, hhazard⟩ := step_engine hl he hr
      obtain ⟨u, hu, heu, hhu⟩ := ih hsched (hpolls' v) hev h
      exact ⟨u, (core_run_succ (M := core) _ hv).trans hu, heu, hhu.trans hhazard⟩
    · rw [List.countP_cons_of_neg (by simp)] at h
      obtain ⟨v, hv, hev, hsched, hhazard⟩ := step_poll hl ha
      obtain ⟨u, hu, heu, hhu⟩ := ih hsched (hpolls' v) (hev.trans he) h
      exact ⟨u, (core_run_succ (M := core) _ hv).trans hu, heu, hhu.trans hhazard⟩

/-! ### The end of a run (R243) -/

theorem runOver_iff_not_busy (h : CoreInv s) :
    s.runOver = true ↔ (∀ op, Turn.host op ∉ s.schedule) ∧ s.busy = false := by
  rw [runOver_iff, ← Bool.not_eq_true, h.busyPhase, not_not]

theorem engineTurn_of_no_host (h : ∀ op, Turn.host op ∉ s.schedule) : EngineTurn s := by
  cases hs : s.schedule with
  | nil => exact .inl hs
  | cons turn l =>
    cases turn with
    | host op => exact absurd (by simp [hs]) (h op)
    | engine => exact .inr (by rw [hs, List.head?_cons])

theorem step_of_runOver (h : s.runOver = true) : step s = .next (takeTurn s) := by
  obtain ⟨hhost, hidle⟩ := (runOver_iff s).1 h
  rw [step_of_engineTurn (engineTurn_of_no_host hhost), engineStep, show (takeTurn s).phase = .idle from hidle]

theorem runOver_takeTurn (h : s.runOver = true) : (takeTurn s).runOver = true := by
  rw [runOver_iff] at h ⊢
  obtain ⟨hhost, hidle⟩ := h
  exact ⟨fun op hm => hhost op (List.mem_of_mem_tail hm), hidle⟩

theorem endState_of_runOver {n : Nat} (h : s.runOver = true) (hr : core.run n s = .next t) :
    t.endState = s.endState := by
  induction n generalizing s with
  | zero =>
    cases hr
    rfl
  | succ n ih =>
    rw [core_run_succ (M := core) n (step_of_runOver h)] at hr
    exact (ih (runOver_takeTurn h) hr : t.endState = (takeTurn s).endState)

/-- Of two runs from one state, the longer continues the shorter, which is over. -/
theorem endState_of_longer_run {m n : Nat} (hmn : m ≤ n) (hm : core.run m s = .next t) (ht : t.runOver = true)
    (hn : core.run n s = .next u) : u.endState = t.endState := by
  obtain ⟨k, rfl⟩ := Nat.exists_eq_add_of_le hmn
  exact endState_of_runOver ht ((core_run_add k hm).symm.trans hn)

theorem endsIn_endState (ht : EndsIn s t) (hu : EndsIn s u) : t.endState = u.endState := by
  obtain ⟨m, hm, htover⟩ := ht
  obtain ⟨n, hn, huover⟩ := hu
  obtain hmn | hnm := Nat.le_total m n
  · exact (endState_of_longer_run hmn hm htover hn).symm
  · exact endState_of_longer_run hnm hn huover hm

/-! ### The end state is what the host can read (R63, R243) -/

theorem readWord_of_endState (hp : s.params = t.params) (h : s.endState = t.endState) (a : Word) :
    readWord a s = readWord a t := by
  simp only [State.endState, EndState.mk.injEq] at h
  simp only [readWord, hp, h]

theorem bit_setWidth_inj {x y : Bit} (h : x.setWidth 32 = y.setWidth 32) : x = y := by
  revert x y
  decide

theorem elementWord_inj {a : Word} {x y : Option Bit} (h : elementWord a x = elementWord a y) : x = y := by
  match x, y with
  | none, none => rfl
  | none, some y => cases h
  | some x, none => cases h
  | some x, some y => exact congrArg some (bit_setWidth_inj (Except.ok.inj h))

theorem generators_ext {l l' : List Word} {n : Nat} (hl : l.length = n) (hl' : l'.length = n)
    (h : ∀ j, j < n → l.getD j 0 = l'.getD j 0) : l = l' := by
  refine List.ext_getElem (hl.trans hl'.symm) fun j hj hj' => ?_
  simpa [hj, hj'] using h j (hl ▸ hj)

theorem read_eq_none_of_bound {m : Memory Bit} {n i : Nat} (h : ∀ x ∈ m, x.1 < n) (hi : ¬ i < n) :
    Memory.read m i = none :=
  Option.eq_none_iff_forall_ne_some.2 fun _ hv => hi (h _ (Memory_mem_of_read hv))

/-- Two bit memories of `n` elements are the same if their elements are. -/
theorem bitMemory_ext {m m' : Memory Bit} {n : Nat} (hm : Memory.wf m ∧ ∀ x ∈ m, x.1 < n)
    (hm' : Memory.wf m' ∧ ∀ x ∈ m', x.1 < n) (h : ∀ i, i < n → Memory.read m i = Memory.read m' i) : m = m' := by
  obtain ⟨hwf, hbound⟩ := hm
  obtain ⟨hwf', hbound'⟩ := hm'
  refine Memory_ext hwf hwf' fun i => ?_
  by_cases hi : i < n
  · exact h i hi
  · rw [read_eq_none_of_bound hbound hi, read_eq_none_of_bound hbound' hi]

/-- What every address reads as determines each part of the end state: a register by its own address, a generator file
and a bit memory by the addresses of their elements. -/
theorem endState_of_readWord (hs : CoreInv s) (ht : CoreInv t) (hp : s.params = t.params)
    (h : ∀ a, readWord a s = readWord a t) : s.endState = t.endState := by
  have hl := hs.legal
  have hgenIn : s.genIn = t.genIn := generators_ext hs.genInLength (hp ▸ ht.genInLength) fun j hj =>
    have ha := decodeAddr_genIn_addr hl hj
    Except.ok.inj ((readWord_genIn ha).symm.trans ((h _).trans (readWord_genIn (hp ▸ ha))))
  have hgen : s.gen = t.gen := generators_ext hs.genLength (hp ▸ ht.genLength) fun j hj =>
    have ha := decodeAddr_gen_addr hl hj
    Except.ok.inj ((readWord_gen ha).symm.trans ((h _).trans (readWord_gen (hp ▸ ha))))
  have hin : s.inMem = t.inMem := bitMemory_ext hs.inMemForm (hp ▸ ht.inMemForm) fun i hi =>
    have ha := decodeAddr_inMem_addr hl hi
    elementWord_inj ((readWord_inMem ha).symm.trans ((h _).trans (readWord_inMem (hp ▸ ha))))
  have hout : s.outMem = t.outMem := bitMemory_ext hs.outMemForm (hp ▸ ht.outMemForm) fun i hi =>
    have ha := decodeAddr_outMem_addr hl hi
    elementWord_inj ((readWord_outMem ha).symm.trans ((h _).trans (readWord_outMem (hp ▸ ha))))
  rw [State.endState, State.endState, EndState.mk.injEq]
  exact ⟨Except.ok.inj (h 0x1), Except.ok.inj (h 0x2), Except.ok.inj (h 0x3), Except.ok.inj (h 0x4),
    Except.ok.inj (h 0x5), Except.ok.inj (h 0x6), Except.ok.inj (h 0x8), Except.ok.inj (h 0x9), Except.ok.inj (h 0xA),
    hgenIn, hgen, hin, hout⟩

/-- Settles O54: polls by the induction on the schedule, the end of a run by its idle turns, and the end state address
by address. -/
theorem pollsUnobserved : Obligations.PollsUnobserved := by
  refine ⟨fun s t hpolls h => ?_, fun _ => runOver_iff_not_busy,
    fun _ h => ⟨step_of_runOver h, runOver_takeTurn h, rfl⟩, fun _ _ _ => endsIn_endState,
    fun _ _ hs ht hp => ⟨readWord_of_endState hp, endState_of_readWord hs ht hp⟩⟩
  obtain ⟨u, hu, he, hhazard⟩ := run_of_engineRun rfl hpolls rfl h
  have hend : (eraseHost u).endState = (eraseHost t).endState := congrArg State.endState he
  exact ⟨u, hu, he, hend, hhazard⟩

end Sys2Proof.Proofs
end

section
/-! PROOFS. Command words and the STATUS word (O1 to O4, O53): a word decodes exactly if it is the encoding of a
command, how every other word is named, and what the STATUS word is as a number. -/

namespace Sys2Proof.Proofs

open Sys2Proof.Machine Sys2Proof.Laws

variable {w : Word}

/-! ### The three command words (R92, R93) -/

theorem decodeWord_encode (i : Instr) : decodeWord (encode i) = .ok i := by
  cases i <;> decide

theorem decodeWord_eq_ok_iff {i : Instr} : decodeWord w = .ok i ↔ w = encode i :=
  ⟨eq_encode_of_decodeWord, fun h => h ▸ decodeWord_encode i⟩

/-- Settles O3: the round trip of each command, and the two fields of a word that decodes. -/
theorem encodeDecodeAgree : Obligations.EncodeDecodeAgree := fun _ _ _ => decodeWord_eq_ok_iff

/-- Settles O1: the three encodings are the words 1, 2 and 3, and a word that decodes is one of them. -/
theorem commandWords : Obligations.CommandWords := by
  intro w
  refine ⟨decodeWord_eq_ok_iff, decodeWord_eq_ok_iff, decodeWord_eq_ok_iff, fun h1 h2 h3 => ?_⟩
  cases hd : decodeWord w with
  | error e => exact ⟨e, rfl⟩
  | ok i =>
    have hw := decodeWord_eq_ok_iff.1 hd
    cases i with
    | configure => exact absurd hw h1
    | encode => exact absurd hw h2
    | decode => exact absurd hw h3

/-! ### Reserved and illegal words (R94) -/

theorem decodeOp_eq_none {op : BitVec 4} (h : op.toNat = 0 ∨ 4 ≤ op.toNat) : decodeOp op = none := by
  cases ho : decodeOp op with
  | none => rfl
  | some i =>
    obtain rfl := opcode_of_decodeOp ho
    cases i <;> simp [opcode] at h

theorem decodeWord_of_rsvd_ne_zero (h : rsvdField w ≠ 0) : decodeWord w = .error (.reservedBits (rsvdField w)) :=
  if_neg h

theorem decodeWord_of_reservedOp (hr : rsvdField w = 0) (h : decodeOp (opField w) = none) :
    decodeWord w = .error (.reservedOp (opField w)) := by
  simp [decodeWord, hr, h]

theorem rsvdField_eq_zero_iff : rsvdField w = 0 ↔ w.toNat < 16 := by
  rw [← BitVec.toNat_inj, rsvdField_toNat]
  exact Nat.div_eq_zero_iff_lt (by decide)

/-- Settles O2: a word of at least 16 has RSVD ≠ 0; a smaller one is its OP field, reserved unless 1, 2 or 3. -/
theorem reservedWordsNamed : Obligations.ReservedWordsNamed := by
  refine fun w => ⟨fun h => ?_, fun h hop => ?_⟩
  · have hr : rsvdField w ≠ 0 := fun hr => absurd (rsvdField_eq_zero_iff.1 hr) (by omega)
    exact ⟨_, decodeWord_of_rsvd_ne_zero hr, rsvdField_toNat w⟩
  · have hw : (opField w).toNat = w.toNat := (opField_toNat w).trans (Nat.mod_eq_of_lt h)
    exact ⟨_, decodeWord_of_reservedOp (rsvdField_eq_zero_iff.2 h) (decodeOp_eq_none (hw ▸ hop)), hw⟩

/-! ### The opcode table (R93) -/

/-- The table's 32-bit view of a word is the decoder's. -/
theorem decodeTableWord_toNat (w : Word) : decodeTableWord 32 w.toNat = (decodeWord w).toOption := by
  rw [decodeTableWord, Nat.mod_eq_of_lt w.isLt, if_pos w.isLt, BitVec.ofNat_toNat, BitVec.setWidth_eq]

theorem decodeTableWord_encode (i : Instr) : decodeTableWord 32 (encode i).toNat = some i := by
  rw [decodeTableWord_toNat, decodeWord_encode]
  rfl

theorem decodeTableWord_of_error {e : IllegalWord} (h : decodeWord w = .error e) :
    decodeTableWord 32 w.toNat = none := by
  rw [decodeTableWord_toNat, h]
  rfl

/-- Settles O4: each legal row is a command's encoding; of the others 0 and 4 have a reserved OP, 0x11 and 0x80000002
a RSVD ≠ 0. -/
theorem tableRowsDecode : Obligations.TableRowsDecode :=
  ⟨decodeTableWord_encode .configure, decodeTableWord_encode .encode, decodeTableWord_encode .decode,
    decodeTableWord_of_error (w := 0x00000000) (decodeWord_of_reservedOp (by decide) (by decide)),
    decodeTableWord_of_error (w := 0x00000004) (decodeWord_of_reservedOp (by decide) (by decide)),
    decodeTableWord_of_error (w := 0x00000011) (decodeWord_of_rsvd_ne_zero (by decide)),
    decodeTableWord_of_error (w := 0x80000002) (decodeWord_of_rsvd_ne_zero (by decide))⟩

/-! ### The STATUS word (R95) -/

theorem toNat_append_eq_add {m n : Nat} (x : BitVec m) (y : BitVec n) :
    (x ++ y).toNat = x.toNat * 2 ^ n + y.toNat := by
  rw [BitVec.toNat_append, ← Nat.shiftLeft_add_eq_or_of_lt y.isLt, Nat.shiftLeft_eq]

theorem statusWord_toNat (s : State) : s.statusWord.toNat =
    s.err.number.toNat * 16 + (if s.busy then 2 else 0) + (if s.configured then 1 else 0) := by
  change (0#24 ++ s.err.number ++ 0#2 ++ BitVec.ofBool s.busy ++ BitVec.ofBool s.configured).toNat = _
  simp only [toNat_append_eq_add, BitVec.toNat_ofBool, BitVec.toNat_ofNat]
  cases s.busy <;> cases s.configured <;> simp <;> omega

/-- The STATUS word holds ERR, BUSY and CONFIGURED and nothing else of the state. -/
theorem statusWord_of_fields {s : State} {e : ErrCode} {b c : Bool} (he : s.err = e) (hb : s.busy = b)
    (hc : s.configured = c) :
    s.statusWord = 0#24 ++ e.number ++ 0#2 ++ BitVec.ofBool b ++ BitVec.ofBool c := by
  subst he hb hc
  rfl

/-- Settles O53: the layout as a number, and each example by the three fields it fixes. -/
theorem statusWordLayout : Obligations.StatusWordLayout :=
  ⟨statusWord_toNat, fun _ => statusWord_of_fields, fun _ => statusWord_of_fields, fun _ => statusWord_of_fields,
    fun _ => statusWord_of_fields, fun _ => statusWord_of_fields⟩

end Sys2Proof.Proofs
end

section
/-! PROOFS. CONFIGURE and the active configuration (O8, O9, O10, O11, O14): what CHECK answers, what CFG_COMMIT writes,
and that no other move but reset writes K, G, CTRL and GEN. -/

namespace Sys2Proof.Proofs

open Sys2Proof.Machine Sys2Proof.Safety Sys2Proof.Laws

variable {s t : State}

/-! ### CHECK of CONFIGURE (R110, R111, R112) -/

theorem stagedInvalid_eq_false_iff (s : State) : s.stagedInvalid = false ↔ 0 < s.kIn.toInt ∧ s.gIn ≠ 0 := by
  rw [← Bool.not_eq_true, stagedInvalid_iff, not_or, Int.not_le]

theorem stagedTooLarge_eq_false_iff (s : State) :
    s.stagedTooLarge = false ↔ s.kIn.toInt ≤ s.params.kMax ∧ s.gIn.toNat ≤ s.params.gMax := by
  rw [← Bool.not_eq_true, stagedTooLarge_iff, not_or, Int.not_lt, Nat.not_lt]

/-- The two codes CHECK of CONFIGURE can report, in R110's order. -/
theorem execConfigure_check_fails_iff {c : ErrCode} (hp : s.phase = .check) :
    execConfigure s = .next (s.endCommand c) ↔
      (c = .invalidConfiguration ∧ s.stagedInvalid = true) ∨
      (c = .capacity ∧ s.stagedInvalid = false ∧ s.stagedTooLarge = true) := by
  constructor
  · intro h
    obtain ⟨hi, -⟩ | ⟨-, hi, he⟩ | ⟨-, hi, hl, he⟩ | ⟨-, -, -, he⟩ | ⟨hc, -⟩ := execConfigure_cases h
    · cases hp.symm.trans hi
    · exact .inl ⟨congrArg State.err he, hi⟩
    · exact .inr ⟨congrArg State.err he, hi, hl⟩
    · cases congrArg State.phase he
    · cases hp.symm.trans hc
  · rintro (⟨rfl, hi⟩ | ⟨rfl, hi, hl⟩)
    · simp [execConfigure, configureCheck, raiseError, hp, hi]
    · simp [execConfigure, configureCheck, raiseError, hp, hi, hl]

/-- Settles O8: the check of R111 comes first, and no other answer of CHECK has code 1. -/
theorem configureInvalid : Obligations.ConfigureInvalid := by
  refine ⟨rfl, fun s hp => (execConfigure_check_fails_iff hp).trans ?_⟩
  simp [stagedInvalid_iff]

/-- Settles O9: once R111's check has passed, R112's decides. -/
theorem configureOverCapacity : Obligations.ConfigureOverCapacity := by
  refine ⟨rfl, fun s hp hvalid => (execConfigure_check_fails_iff hp).trans ?_⟩
  have hi : s.stagedInvalid = false := by rwa [← Bool.not_eq_true, stagedInvalid_iff]
  simp [hi, stagedTooLarge_iff]

/-- Settles O10: both checks pass. -/
theorem configurePassesChecks : Obligations.ConfigurePassesChecks := fun s hp hkPos hkLe hgNe hgLe =>
  execConfigure_check_of_valid hp ((stagedInvalid_eq_false_iff s).2 ⟨hkPos, hgNe⟩)
    ((stagedTooLarge_eq_false_iff s).2 ⟨hkLe, hgLe⟩)

/-! ### CFG_COMMIT (R113, R114) -/

theorem execConfigure_of_cfgCommit (hp : s.phase = .cfgCommit) :
    execConfigure s = .next (s.commitConfig.endCommand .none) := by
  rw [execConfigure, hp]

/-- R113, R114: the copy is verbatim: K through its signed reading and back, CTRL by its one bit. -/
theorem commitConfig_eq (s : State) : s.commitConfig =
    { s with
      k := s.kIn
      g := s.gIn
      ctrl := if s.ctrlIn.getLsbD 0 then 1 else 0
      gen := s.genIn
      configured := true } := by
  have hk : BitVec.ofInt 32 s.kinSigned = s.kIn := BitVec.ofInt_toInt
  have hc : bit0Word s.ctrlIn = if s.ctrlIn.getLsbD 0 then 1 else 0 := extract_bit0_setWidth s.ctrlIn
  rw [State.commitConfig, hk, hc]

/-- Settles O11: the copy, then the end of the command. -/
theorem configureCommits : Obligations.ConfigureCommits := by
  intro s hp
  change execConfigure s = _
  rw [execConfigure_of_cfgCommit hp, commitConfig_eq]
  rfl

/-! ### Who writes the active configuration (R27, R118) -/

/-- R118: ENCODE and DECODE only read the active configuration, and CONFIGURE writes it in CFG_COMMIT alone. -/
theorem exec_active {i : Instr} (h : exec i s = .next t) :
    SameActive s t ∨ (s.phase = .cfgCommit ∧ t = s.commitConfig.endCommand .none) := by
  cases i with
  | configure =>
    by_cases hp : s.phase = .cfgCommit
    · cases (execConfigure_of_cfgCommit hp).symm.trans h
      exact .inr ⟨hp, rfl⟩
    · obtain ⟨-, -, -, -, -, -, -, -, -, -, -, -, -, hactive, -⟩ := configureFrame s t h
      exact .inl (hactive hp)
  | encode =>
    obtain ⟨-, hactive, -⟩ := encodeFrame s t h
    exact .inl hactive
  | decode =>
    obtain ⟨-, hactive, -⟩ := decodeFrame s t h
    exact .inl hactive

theorem engineStep_active (h : engineStep s = .next t) :
    SameActive s t ∨ (s.phase = .cfgCommit ∧ t = s.commitConfig.endCommand .none) := by
  obtain ⟨-, rfl⟩ | ⟨-, -, rfl⟩ | ⟨-, i, -, he⟩ | ⟨i, -, he⟩ := engineStep_cases h
  · exact .inl ⟨rfl, rfl, rfl, rfl, rfl⟩
  · exact .inl ⟨rfl, rfl, rfl, rfl, rfl⟩
  · exact exec_active he
  · exact exec_active he

/-- R64, R68: no transaction of the host writes the active configuration. -/
theorem hostStep_active {op : HostOp} (h : hostStep op s = .next t) : SameActive s t ∨ op = .reset := by
  cases op with
  | read a =>
    obtain ⟨-, v, -, rfl⟩ := hostRead_cases h
    exact .inl ⟨rfl, rfl, rfl, rfl, rfl⟩
  | write a w =>
    obtain ⟨-, tgt, -, rfl⟩ := hostWrite_cases h
    obtain ⟨hk, hg, hctrl, hgen, hconf, -⟩ := writeTarget_keeps s.noteAccess tgt w
    exact .inl ⟨hk, hg, hctrl, hgen, hconf⟩
  | reset => exact .inr rfl

/-- Every move of the model either leaves the active configuration, or is CFG_COMMIT or reset. -/
theorem step_active (h : step s = .next t) :
    SameActive s t ∨
    (EngineTurn s ∧ s.phase = .cfgCommit ∧ t = (takeTurn s).commitConfig.endCommand .none) ∨
    s.schedule.head? = some (.host .reset) := by
  obtain ⟨hturn, he⟩ | ⟨op, hturn, he⟩ := step_cases h
  · obtain hsame | ⟨hp, ht⟩ := engineStep_active he
    · exact .inl hsame
    · exact .inr (.inl ⟨hturn, hp, ht⟩)
  · obtain hsame | rfl := hostStep_active he
    · exact .inl hsame
    · exact .inr (.inr hturn)

/-- Settles O14: the moves of `step_active`, CFG_COMMIT with its copy and reset with R48's values. -/
theorem activeConfigurationImmutable : Obligations.ActiveConfigurationImmutable := by
  intro s t h
  obtain ⟨hk, hg, hctrl, hgen, -⟩ | ⟨hturn, hp, rfl⟩ | hturn := step_active h
  · exact .inl ⟨hk, hg, hctrl, hgen⟩
  · exact .inr (.inl ⟨hturn, hp, BitVec.ofInt_toInt, rfl, bit0Word_toNat s.ctrlIn, rfl⟩)
  · obtain ⟨u, hu, -, -, -, -, -, -, -, -, hk, hg, hctrl, hgen, -⟩ := resetEvent s hturn
    cases hu.symm.trans h
    exact .inr (.inr ⟨hturn, hk, hg, hctrl, hgen⟩)

end Sys2Proof.Proofs
end

section
/-! PROOFS. ENCODE (O16, O17, O18, O20, O21, O22): what CHECK answers, what one ENC_STEP writes, and the whole run as an
induction over the input bits that are left. -/

namespace Sys2Proof.Proofs

open Sys2Proof.Machine Sys2Proof.Safety Sys2Proof.Laws

variable {s t : State} {x : Nat → Bit}

/-! ### CHECK of ENCODE (R131, R132) -/

theorem encodeTooLarge_eq_false_iff (s : State) :
    s.encodeTooLarge = false ↔ s.inLen.toNat * s.g.toNat ≤ s.params.lMax := by
  rw [← Bool.not_eq_true, encodeTooLarge_iff, Nat.not_lt]

theorem execEncode_check_of_fits (hp : s.phase = .check) (hc : s.configured = true) (hl : s.encodeTooLarge = false) :
    execEncode s = .next s.startEncode := by
  simp [execEncode, encodeCheck, hp, hc, hl]

/-- R131: of a configured core CHECK reports CAPACITY exactly if the product is too large, and otherwise goes on. -/
theorem execEncode_check_capacity_iff (hp : s.phase = .check) (hc : s.configured = true) :
    execEncode s = .next (s.endCommand .capacity) ↔ s.encodeTooLarge = true := by
  cases hl : s.encodeTooLarge with
  | true => simp [execEncode, encodeCheck, raiseError, hp, hc, hl]
  | false =>
    rw [execEncode_check_of_fits hp hc hl]
    refine iff_of_false (fun h => ?_) Bool.false_ne_true
    injection h with h
    cases congrArg State.phase h

/-- Settles O16: NOT_CONFIGURED first, then the product; one generator at least makes the product bound IN_LEN. -/
theorem encodeChecks : Obligations.EncodeChecks :=
  ⟨rfl, rfl, fun s hp =>
    ⟨exec_notConfigured (by decide) hp,
      fun hc => (execEncode_check_capacity_iff hp hc).trans (encodeTooLarge_iff s),
      fun hg hl => Nat.le_trans (Nat.le_mul_of_pos_right _ hg) hl⟩⟩

/-- Settles O17: both checks pass, and the start of R132 clears the shift register. -/
theorem encodeStartsFromZero : Obligations.EncodeStartsFromZero := fun s hp hc hl =>
  execEncode_check_of_fits hp hc ((encodeTooLarge_eq_false_iff s).2 hl)

/-! ### ENC_STEP (R133 to R136) -/

theorem execEncode_of_bit {b : Bit} (hp : s.phase = .encStep) (hne : s.iIdx ≠ s.inLen)
    (hread : Memory.read s.inMem s.iIdx.toNat = some b) : execEncode s = .next (s.encodeBit b) := by
  simp [execEncode, encodeStep, hp, hne, hread]

theorem execEncode_of_last (hp : s.phase = .encStep) (he : s.iIdx = s.inLen) :
    execEncode s = .next s.finishEncode := by
  simp [execEncode, encodeStep, hp, he]

/-- R134, R135: output `j` of group I, as the parity of the positions generator `j` selects. -/
theorem encodeBit_read_group (b : Bit) {j : Nat} (hj : j < s.gNum) :
    Memory.read (s.encodeBit b).outMem (s.iIdx.toNat * s.gNum + j) =
      some (tapParity (s.genNum j) (shiftIn s.encState b) s.kNum) := by
  rw [encodeBit_outMem, writeGroup_read, if_pos (by omega), Nat.add_sub_cancel_left, outBit_eq]

theorem encodeBit_read_outside (b : Bit) {a : Nat}
    (h : a < s.iIdx.toNat * s.gNum ∨ s.iIdx.toNat * s.gNum + s.gNum ≤ a) :
    Memory.read (s.encodeBit b).outMem a = Memory.read s.outMem a := by
  by_contra hne
  have hin := encodeBit_outMem_change hne
  omega

/-- Settles O18: the step is `encodeBit`, whose group and next state are the reference functions'. -/
theorem encodeStepShifts : Obligations.EncodeStepShifts := by
  intro s b hp hne hread
  refine ⟨s.encodeBit b, execEncode_of_bit hp hne hread, ?_, rfl, fun j hj => ?_,
    fun a => encodeBit_read_outside b, rfl⟩
  · rw [encodeBit_encState, nextState_eq, shiftIn_eq]
    rfl
  · rw [← shiftIn_eq]
    exact encodeBit_read_group b hj

/-- R136: OUT_LEN is the exact product where that fits a word. -/
theorem finishEncode_outLen_toNat (h : s.inLen.toNat * s.gNum < 2 ^ 32) :
    s.finishEncode.outLen.toNat = s.inLen.toNat * s.gNum := by
  rw [finishEncode_outLen, BitVec.toNat_ofNat, Nat.mod_eq_of_lt h]

/-- Settles O20: the step is `finishEncode`. -/
theorem encodeCompletes : Obligations.EncodeCompletes := fun s hp he hlt =>
  ⟨s.finishEncode, execEncode_of_last hp he, finishEncode_outLen_toNat hlt, rfl⟩

/-! ### ENCODE on the ENGINE (R46, R208) -/

theorem engineRun_succ {u : State} (n : Nat) (h : engineStep s = .next u) : engineRun (n + 1) s = engineRun n u := by
  rw [engineRun, h]

theorem engineStep_encode_check (hp : s.phase = .check) (ho : s.opc = 2) (hc : s.configured = true)
    (hl : s.encodeTooLarge = false) : engineStep s = .next s.startEncode :=
  have hd : decodeWord s.opc = .ok .encode := by rw [ho]; rfl
  (engineStep_of_check hp hd).trans (execEncode_check_of_fits hp hc hl)

theorem engineStep_encStep (hp : s.phase = .encStep) : engineStep s = execEncode s :=
  engineStep_of_phase (i := .encode) (by rw [hp]; rfl)

theorem engineStep_encode_last (hp : s.phase = .encStep) (he : s.iIdx = s.inLen) :
    engineStep s = .next s.finishEncode :=
  (engineStep_encStep hp).trans (execEncode_of_last hp he)

/-- Settles O22: CHECK passes a product of 0, and I starts at IN_LEN. -/
theorem encodeEmptyInput : Obligations.EncodeEmptyInput := by
  intro s hp ho hc hz
  have hprod : s.inLen.toNat * s.g.toNat = 0 := by simp [hz]
  have hl : s.encodeTooLarge = false := (encodeTooLarge_eq_false_iff s).2 (hprod ▸ Nat.zero_le _)
  rw [engineRun_two (engineStep_encode_check hp ho hc hl) (engineStep_encode_last rfl hz.symm)]
  have hout : BitVec.ofNat 32 (s.startEncode.inLen.toNat * s.startEncode.gNum) = 0 := congrArg (BitVec.ofNat 32) hprod
  rw [State.finishEncode, hout]
  rfl

/-! ### The shift register as the input's history (R133, R140, R141) -/

/-- The low `n` bits of `c` are the input bits before bit `i`, the latest at bit 0, with `x_m = 0` for `m < 0`. -/
def HoldsHistory (c : Nat) (x : Nat → Bit) (i n : Nat) : Prop :=
  ∀ p, p < n → c.testBit p = (decide (p < i) && decide (x (i - 1 - p) = 1))

theorem holdsHistory_zero (x : Nat → Bit) (n : Nat) : HoldsHistory 0 x 0 n := fun p _ => by simp

theorem bit_eq_zero_or_one (b : Bit) : b = 0 ∨ b = 1 := by
  revert b
  decide

theorem testBit_shiftIn_zero (st : Nat) (b : Bit) : (shiftIn st b).testBit 0 = decide (b = 1) := by
  obtain rfl | rfl := bit_eq_zero_or_one b <;> simp [shiftIn_eq, Nat.testBit_zero]

theorem testBit_shiftIn_succ (st : Nat) (b : Bit) (p : Nat) : (shiftIn st b).testBit (p + 1) = st.testBit p := by
  have hb := bit_toNat_le b
  rw [shiftIn_eq, Nat.testBit_succ, show (2 * st + b.toNat) / 2 = st by omega]

/-- R133: shifting bit `i` in makes the history one bit longer. -/
theorem holdsHistory_shiftIn {c i n : Nat} (h : HoldsHistory c x i n) :
    HoldsHistory (shiftIn c (x i)) x (i + 1) (n + 1) := by
  intro p hp
  cases p with
  | zero => rw [testBit_shiftIn_zero]; simp
  | succ p => rw [testBit_shiftIn_succ, h p (by omega), show i + 1 - 1 - (p + 1) = i - 1 - p by omega]; simp

/-- R133: the next state keeps the history of its K-1 bits. -/
theorem holdsHistory_nextState {c i : Nat} (s : State) (h : HoldsHistory c x i (s.kNum - 1 + 1)) :
    HoldsHistory (s.nextState c) x i (s.kNum - 1) := by
  intro p hp
  rw [nextState_eq, State.stateCount, Nat.testBit_mod_two_pow, h p (by omega)]
  simp [hp]

/-- R140: over a history that ends with bit `i`, the parity of the taps is the convolution. -/
theorem tapParity_of_history {c i n : Nat} (g : Nat) (h : HoldsHistory c x (i + 1) n) :
    tapParity g c n = convBit g x i n := by
  induction n with
  | zero => rfl
  | succ n ih =>
    rw [tapParity, convBit, ih fun p hp => h p (by omega), h n (by omega), show i + 1 - 1 - n = i - n by omega]
    obtain hx | hx := bit_eq_zero_or_one (x (i - n)) <;> simp [hx]

/-! ### The run over the input bits (R135, R140) -/

/-- `t` is `s` in the midst of its ENCODE of `x`: the bits before I are encoded, and nothing else but ENC_STATE and I
has changed since its start. -/
structure EncodeProgress (s : State) (x : Nat → Bit) (t : State) : Prop where
  frame : t = { s.startEncode with encState := t.encState, iIdx := t.iIdx, outMem := t.outMem }
  history : HoldsHistory t.encState x t.iIdx.toNat (s.kNum - 1)
  encoded : ∀ i j, i < t.iIdx.toNat → j < s.gNum →
    Memory.read t.outMem (i * s.gNum + j) = some (convBit (s.genNum j) x i s.kNum)
  rest : ∀ a, t.iIdx.toNat * s.gNum ≤ a → Memory.read t.outMem a = Memory.read s.outMem a

namespace EncodeProgress

theorem phase (h : EncodeProgress s x t) : t.phase = .encStep := by rw [h.frame]; rfl
theorem inLen (h : EncodeProgress s x t) : t.inLen = s.inLen := by rw [h.frame]; rfl
theorem inMem (h : EncodeProgress s x t) : t.inMem = s.inMem := by rw [h.frame]; rfl
theorem kNum (h : EncodeProgress s x t) : t.kNum = s.kNum := by rw [h.frame]; rfl
theorem gNum (h : EncodeProgress s x t) : t.gNum = s.gNum := by rw [h.frame]; rfl
theorem genNum (h : EncodeProgress s x t) (j : Nat) : t.genNum j = s.genNum j := by rw [h.frame]; rfl

end EncodeProgress

theorem encodeProgress_start (s : State) (x : Nat → Bit) : EncodeProgress s x s.startEncode where
  frame := rfl
  history := holdsHistory_zero x _
  encoded := fun _ _ hi => absurd hi (Nat.not_lt_zero _)
  rest := fun _ _ => rfl

/-- R140: one bit more, below IN_LEN. -/
theorem encodeProgress_encodeBit (h : EncodeProgress s x t) (hlt : t.iIdx.toNat < s.inLen.toNat) :
    EncodeProgress s x (t.encodeBit (x t.iIdx.toNat)) := by
  have hne : t.iIdx ≠ s.inLen := fun e => Nat.ne_of_lt hlt (e ▸ rfl)
  have hinc : (t.iIdx + 1).toNat = t.iIdx.toNat + 1 := (inc_toNat (Nat.le_of_lt hlt) hne).1
  have hshift := holdsHistory_shiftIn h.history
  refine ⟨?_, ?_, fun i j hi hj => ?_, fun a ha => ?_⟩
  · rw [h.frame]
    rfl
  · rw [encodeBit_iIdx, hinc, ← h.kNum]
    exact holdsHistory_nextState t (h.kNum ▸ hshift)
  · rw [encodeBit_iIdx, hinc] at hi
    obtain hi | rfl := Nat.lt_succ_iff_lt_or_eq.1 hi
    · have hend : i * s.gNum + j < t.iIdx.toNat * t.gNum := by
        rw [h.gNum]
        calc i * s.gNum + j < (i + 1) * s.gNum := by rw [Nat.succ_mul]; omega
          _ ≤ t.iIdx.toNat * s.gNum := Nat.mul_le_mul_right _ hi
      rw [encodeBit_read_outside _ (.inl hend), h.encoded i j hi hj]
    · rw [← h.gNum, encodeBit_read_group _ (h.gNum.symm ▸ hj), h.genNum, h.kNum,
        tapParity_of_history _ fun p hp => hshift p (by omega)]
  · rw [encodeBit_iIdx, hinc, Nat.succ_mul] at ha
    rw [encodeBit_read_outside _ (.inr (by rwa [h.gNum])), h.rest a (by omega)]

/-- The `n` bits that are left take a step each, and completion one more (R241). -/
theorem engineRun_encode (n : Nat) (h : EncodeProgress s x t) (hx : Holds s.inMem x s.inLen.toNat)
    (hn : s.inLen.toNat = t.iIdx.toNat + n) :
    ∃ u, EncodeProgress s x u ∧ u.iIdx = s.inLen ∧ engineRun (n + 1) t = .next u.finishEncode := by
  induction n generalizing t with
  | zero =>
    have hlast : t.iIdx = s.inLen := BitVec.eq_of_toNat_eq hn.symm
    exact ⟨t, h, hlast, engineRun_succ 0 (engineStep_encode_last h.phase (hlast.trans h.inLen.symm))⟩
  | succ n ih =>
    have hlt : t.iIdx.toNat < s.inLen.toNat := by omega
    have hne : t.iIdx ≠ s.inLen := fun e => Nat.ne_of_lt hlt (e ▸ rfl)
    have hread : Memory.read t.inMem t.iIdx.toNat = some (x t.iIdx.toNat) := by
      rw [h.inMem, hx _ hlt]
    have hstep : engineStep t = .next (t.encodeBit (x t.iIdx.toNat)) :=
      (engineStep_encStep h.phase).trans (execEncode_of_bit h.phase (h.inLen.symm ▸ hne) hread)
    have hleft : s.inLen.toNat = (t.iIdx + 1).toNat + n := by
      rw [(inc_toNat (Nat.le_of_lt hlt) hne).1]
      omega
    rw [engineRun_succ _ hstep]
    exact ih (encodeProgress_encodeBit h hlt) hleft

/-- The frame of a whole ENCODE. -/
theorem encodeProgress_frame (h : EncodeProgress s x t) :
    SameStaged s t.finishEncode ∧ SameActive s t.finishEncode ∧ SameHost s t.finishEncode ∧
    SameInput s t.finishEncode ∧ SameTrellis s t.finishEncode := by
  rw [h.frame]
  exact ⟨⟨rfl, rfl, rfl, rfl, rfl⟩, ⟨rfl, rfl, rfl, rfl, rfl⟩, ⟨rfl, rfl, rfl, rfl, rfl⟩, fun _ => rfl,
    fun _ => ⟨rfl, rfl⟩⟩

/-- Settles O21: CHECK starts the progress at no bit, and the run takes it to the last one. -/
theorem encodeRuns : Obligations.EncodeRuns := by
  intro s x hinv hp ho hc hl hx
  obtain ⟨-, -, ⟨-, hmax⟩, -⟩ := hinv.legal
  obtain ⟨u, h, hlast, hrun⟩ :=
    engineRun_encode s.inLen.toNat (encodeProgress_start s x) hx (Nat.zero_add _).symm
  have hcheck := engineStep_encode_check hp ho hc ((encodeTooLarge_eq_false_iff s).2 hl)
  have hprod : u.inLen.toNat * u.gNum = s.inLen.toNat * s.g.toNat := by
    rw [h.inLen, h.gNum]
    rfl
  have hlen : u.finishEncode.outLen.toNat = s.inLen.toNat * s.g.toNat :=
    (finishEncode_outLen_toNat (by omega)).trans hprod
  have hframe := encodeProgress_frame h
  obtain ⟨-, hhistory, hencoded, hrest⟩ := h
  rw [hlast] at hhistory hencoded hrest
  exact ⟨_, (engineRun_succ _ hcheck).trans hrun, rfl, rfl, rfl, hlen, hencoded, hrest, hhistory, hframe⟩

end Sys2Proof.Proofs
end

section
/-! PROOFS. The trellis invariant (O58): what one candidate adds to the column being filled, that a full column is
finished, and what terminal selection and traceback rely on. -/

namespace Sys2Proof.Proofs

open Sys2Proof.Machine Sys2Proof.Safety Sys2Proof.Laws

variable {s t : State}

/-! ### Compare-and-select keeps the configuration (R27, R156) -/

@[simp] theorem select_stateCount (ns c : Nat) (s : State) : (s.select ns c).stateCount = s.stateCount := by
  simp [State.stateCount, State.kNum]

@[simp] theorem select_inf (ns c : Nat) (s : State) : (s.select ns c).inf = s.inf := by simp [State.inf]

@[simp] theorem select_kNum (ns c : Nat) (s : State) : (s.select ns c).kNum = s.kNum := by simp [State.kNum]

@[simp] theorem select_gNum (ns c : Nat) (s : State) : (s.select ns c).gNum = s.gNum := by simp [State.gNum]

@[simp] theorem select_nextState (ns c d : Nat) (s : State) : (s.select ns c).nextState d = s.nextState d := by
  simp [nextState_eq]

/-! ### What the invariant asks in each phase -/

/-- Before DEC_INIT has run and after the command's end the invariant asks nothing. -/
theorem trellisInv_of_noTrellis {p : Phase} (hp : s.phase = p) (h : p ≠ .decAcs ∧ p ≠ .decSel ∧ p ≠ .decTb) :
    TrellisInv s := by
  obtain ⟨hacs, hsel, htb⟩ := h
  constructor <;> simp [hp, hacs, hsel, htb]

theorem trellisInv_of_selecting (hp : s.phase = .decSel)
    (hsound : ∀ τ st, τ ≤ s.nSteps.toNat → st < s.stateCount → Reachable s τ st → CellSound s τ st)
    (hsel : ∀ τ st, τ ≤ s.nSteps.toNat → st < s.stateCount → (Reachable s τ st ↔ st < 2 ^ min τ (s.kNum - 1))) :
    TrellisInv s := by
  constructor <;> simp only [hp, reduceCtorEq, false_implies, true_implies, or_true, true_or]
  · exact hsound
  · exact hsel

theorem trellisInv_of_tracing (hp : s.phase = .decTb)
    (hsound : ∀ τ st, τ ≤ s.nSteps.toNat → st < s.stateCount → Reachable s τ st → CellSound s τ st)
    (hheld : s.fst < s.stateCount ∧ Reachable s s.t.toNat s.fst) : TrellisInv s := by
  constructor <;> simp only [hp, reduceCtorEq, false_implies, true_implies, or_true]
  · exact hsound
  · exact hheld

/-! ### Cells of the running trellis -/

theorem inf_pos (h : CoreInv s) : 0 < s.inf := by
  obtain ⟨-, -, -, -, hinf⟩ := h.legal
  exact Nat.lt_of_le_of_lt (Nat.zero_le _) hinf

theorem lt_inf_of_reachable {τ st : Nat} (h : CoreInv s) (hr : Reachable s τ st) : s.costAt τ st < s.inf :=
  Nat.lt_of_le_of_ne (costCell_le_inf h _) hr

theorem reachable_of_lt_inf {τ st : Nat} (h : s.costAt τ st < s.inf) : Reachable s τ st := Nat.ne_of_lt h

/-- R156: with a finite candidate cost, compare-and-select makes the cell it leads to reachable, and no other. -/
theorem reachable_select {ns c τ st : Nat} (hns : ns < s.stateCount) (hst : st < s.stateCount) (hc : c < s.inf) :
    Reachable (s.select ns c) τ st ↔ Reachable s τ st ∨ (τ = s.t.toNat + 1 ∧ st = ns) := by
  unfold Reachable
  rw [select_costAt hns hst, select_inf]
  split
  · rename_i hwin
    obtain ⟨hτ, hst, -⟩ := hwin
    exact iff_of_true (Nat.ne_of_lt hc) (.inr ⟨hτ, hst⟩)
  · rename_i hkeep
    refine ⟨.inl, fun h => h.elim id ?_⟩
    rintro ⟨rfl, rfl⟩
    have hle : s.costAt (s.t.toNat + 1) st ≤ c := Nat.le_of_not_lt fun hlt => hkeep ⟨rfl, rfl, hlt⟩
    exact Nat.ne_of_lt (Nat.lt_of_le_of_lt hle hc)

/-! ### The forward pass, candidate by candidate (R157, R161, R162) -/

/-- The trellis after the first `n` candidates of time step `T`: every reachable cell is sound, the columns up to `T`
are finished, column `T + 1` is reachable where a candidate already taken leads, and no later column is reachable. -/
structure ForwardInv (s : State) (T n : Nat) : Prop where
  sound : ∀ τ st, τ ≤ s.nSteps.toNat → st < s.stateCount → Reachable s τ st → CellSound s τ st
  finished : ∀ τ st, τ ≤ T → st < s.stateCount → (Reachable s τ st ↔ st < 2 ^ min τ (s.kNum - 1))
  filling : ∀ st, st < s.stateCount →
    (Reachable s (T + 1) st ↔ ∃ c, c < n ∧ Reachable s T (c / 2) ∧ s.nextState c = st)
  untouched : ∀ τ st, T + 1 < τ → τ ≤ s.nSteps.toNat → st < s.stateCount → ¬ Reachable s τ st

theorem forwardInv_of_trellisInv (h : TrellisInv s) (hp : s.phase = .decAcs) :
    ForwardInv s s.t.toNat (2 * s.si + s.b.toNat) :=
  ⟨h.sound (.inl hp), h.finished hp, h.filling hp, h.untouched hp⟩

/-- In DEC_ACS the clauses about the other phases are void. -/
theorem trellisInv_of_forwardInv {T n : Nat} (h : ForwardInv s T n) (hp : s.phase = .decAcs) (hT : s.t.toNat = T)
    (hn : 2 * s.si + s.b.toNat = n) : TrellisInv s := by
  subst hT hn
  exact ⟨fun _ => h.sound, fun _ => h.finished, fun _ => h.filling, fun _ => h.untouched,
    fun hs => absurd (hp.symm.trans hs) (by decide), fun hs => absurd (hp.symm.trans hs) (by decide)⟩

/-- R154: a candidate from an unreachable state adds nothing. -/
theorem forwardInv_skip {T n : Nat} (h : ForwardInv s T n) (hn : ¬ Reachable s T (n / 2)) :
    ForwardInv s T (n + 1) :=
  { h with
    filling := fun st hst => by
      rw [h.filling st hst, Nat.exists_lt_succ_right]
      exact (or_iff_left fun hlast => hn hlast.1).symm }

/-- R161: one branch after a path to time `T` costs at most `(T+1)*G`, so that the sum does not saturate. -/
theorem satadd_branch {T N g inf cost seg : Nat} (hle : cost ≤ T * g) (hseg : seg ≤ g) (hT : T < N)
    (hinf : N * g < inf) : satadd inf cost seg = cost + seg ∧ cost + seg ≤ (T + 1) * g ∧ cost + seg < inf := by
  have hcol : (T + 1) * g ≤ N * g := Nat.mul_le_mul_right _ hT
  have hsum : cost + seg ≤ (T + 1) * g := by rw [Nat.succ_mul]; omega
  have hlt : cost + seg < inf := by omega
  exact ⟨Nat.min_eq_left (Nat.le_of_lt hlt), hsum, hlt⟩

theorem shiftIn_div_two (st : Nat) (b : Bit) : shiftIn st b / 2 = st := by
  have hb := bit_toNat_le b
  rw [shiftIn_eq]
  omega

/-- R161, R163: compare-and-select with a cost of at most `(T+1)*G` keeps every reachable cell sound. -/
theorem cellSound_select {c τ st : Nat} (hsi : s.si < s.stateCount) (hr : Reachable s s.t.toNat s.si)
    (hle : c ≤ (s.t.toNat + 1) * s.gNum) (hc : c < s.inf) (hst : st < s.stateCount)
    (hsound : Reachable s τ st → CellSound s τ st)
    (h : Reachable (s.select (s.nextState (shiftIn s.si s.b)) c) τ st) :
    CellSound (s.select (s.nextState (shiftIn s.si s.b)) c) τ st := by
  have hns := nextState_lt s (shiftIn s.si s.b)
  rw [Reachable, select_costAt hns hst, select_inf] at h
  rw [CellSound, select_costAt hns hst, select_bpAt hns hst, select_gNum, select_stateCount, select_nextState]
  split at h
  · rename_i hwin
    rw [if_pos hwin, if_pos hwin]
    obtain ⟨rfl, rfl, -⟩ := hwin
    refine ⟨hle, fun h0 => absurd h0 (Nat.succ_ne_zero _), fun t' ht' => ?_⟩
    obtain rfl : s.t.toNat = t' := Nat.succ.inj ht'
    exact ⟨rfl, hsi, (reachable_select hns hsi hc).2 (.inl hr), rfl⟩
  · rename_i hkeep
    rw [if_neg hkeep, if_neg hkeep]
    obtain ⟨hcost, hzero, hentry⟩ := hsound h
    refine ⟨hcost, hzero, fun t' ht' => ?_⟩
    obtain ⟨hvalid, hpred, hrpred, hnext⟩ := hentry t' ht'
    exact ⟨hvalid, hpred, (reachable_select hns hpred hc).2 (.inl hrpred), hnext⟩

/-- R155, R156: compare-and-select with a cost of at most `(T+1)*G` takes the candidate. -/
theorem forwardInv_select {c : Nat} (h : ForwardInv s s.t.toNat (shiftIn s.si s.b)) (hsi : s.si < s.stateCount)
    (hr : Reachable s s.t.toNat s.si) (hle : c ≤ (s.t.toNat + 1) * s.gNum) (hc : c < s.inf) :
    ForwardInv (s.select (s.nextState (shiftIn s.si s.b)) c) s.t.toNat (shiftIn s.si s.b + 1) := by
  have hlt := shiftIn_lt s.b hsi
  have hreach : ∀ {τ st}, st < s.stateCount →
      (Reachable (s.select (s.nextState (shiftIn s.si s.b)) c) τ st ↔
        Reachable s τ st ∨ (τ = s.t.toNat + 1 ∧ st = s.nextState (shiftIn s.si s.b))) :=
    fun hst => reachable_select (nextState_lt s _) hst hc
  have hold : ∀ {τ st}, τ ≠ s.t.toNat + 1 → st < s.stateCount →
      (Reachable (s.select (s.nextState (shiftIn s.si s.b)) c) τ st ↔ Reachable s τ st) :=
    fun hτ hst => (hreach hst).trans (or_iff_left fun hnew => hτ hnew.1)
  constructor <;> simp only [select_nSteps, select_stateCount, select_kNum, select_nextState]
  case sound => exact fun τ st hτ hst => cellSound_select hsi hr hle hc hst (h.sound τ st hτ hst)
  case finished => exact fun τ st hτ hst => (hold (by omega) hst).trans (h.finished τ st hτ hst)
  case untouched => exact fun τ st hτ hN hst => (hold (by omega) hst).not.2 (h.untouched τ st hτ hN hst)
  case filling =>
    intro st hst
    have hpred : ∀ d, d < shiftIn s.si s.b →
        (Reachable (s.select (s.nextState (shiftIn s.si s.b)) c) s.t.toNat (d / 2) ↔ Reachable s s.t.toNat (d / 2)) :=
      fun d hd => hold (by omega) (by omega)
    have hlast : Reachable (s.select (s.nextState (shiftIn s.si s.b)) c) s.t.toNat s.si := (hold (by omega) hsi).2 hr
    rw [hreach hst, h.filling st hst, Nat.exists_lt_succ_right, shiftIn_div_two]
    refine or_congr (exists_congr fun d => and_congr_right fun hd => by rw [hpred d hd]) ?_
    simp [hlast, eq_comm]

/-! ### The end of a column (R162, R165) -/

/-- R162: the candidates from the states below `2^min(t, m)` lead exactly to the states below `2^min(t+1, m)`. -/
theorem exists_candidate_iff {m τ st : Nat} (hst : st < 2 ^ m) :
    (∃ c, c < 2 * 2 ^ m ∧ c / 2 < 2 ^ min τ m ∧ c % 2 ^ m = st) ↔ st < 2 ^ min (τ + 1) m := by
  obtain hτ | hτ := Nat.lt_or_ge τ m
  · have hpow : 2 ^ (τ + 1) = 2 * 2 ^ τ := Nat.pow_succ'
    rw [Nat.min_eq_left (Nat.le_of_lt hτ), Nat.min_eq_left hτ]
    constructor
    · rintro ⟨c, -, hc, rfl⟩
      have hmod := Nat.mod_le c (2 ^ m)
      omega
    · exact fun h => ⟨st, by omega, by omega, Nat.mod_eq_of_lt hst⟩
  · rw [Nat.min_eq_right hτ, Nat.min_eq_right (by omega)]
    exact iff_of_true ⟨st, by omega, by omega, Nat.mod_eq_of_lt hst⟩ hst

/-- A column whose candidates are all taken is finished. -/
theorem ForwardInv.finished_succ {T : Nat} (h : ForwardInv s T (2 * s.stateCount)) :
    ∀ τ st, τ ≤ T + 1 → st < s.stateCount → (Reachable s τ st ↔ st < 2 ^ min τ (s.kNum - 1)) := by
  intro τ st hτ hst
  obtain hτ | rfl := Nat.le_succ_iff.1 hτ
  · exact h.finished τ st hτ hst
  · rw [h.filling st hst, ← exists_candidate_iff hst]
    refine exists_congr fun c => and_congr_right fun hc => ?_
    rw [h.finished T (c / 2) (Nat.le_refl T) (by omega), nextState_eq]
    rfl

/-- R157: after the last candidate of a column the next one starts. -/
theorem forwardInv_nextColumn {T : Nat} (h : ForwardInv s T (2 * s.stateCount)) (hT : T + 1 < s.nSteps.toNat) :
    ForwardInv s (T + 1) 0 where
  sound := h.sound
  finished := h.finished_succ
  filling := fun st hst => iff_of_false (h.untouched _ st (Nat.lt_succ_self _) hT hst) (by simp)
  untouched := fun τ st hτ hN hst => h.untouched τ st (by omega) hN hst

/-- The counters move past a candidate that has been taken (R157, R165). -/
theorem trellisInv_advance (h : ForwardInv s s.t.toNat (shiftIn s.si s.b + 1)) (hsi : s.si < s.stateCount)
    (hT : s.t.toNat < s.nSteps.toNat) : TrellisInv s.advance := by
  have hne : s.t ≠ s.nSteps := fun e => Nat.ne_of_lt hT (congrArg BitVec.toNat e)
  have hinc : (s.t + 1).toNat = s.t.toNat + 1 := (inc_toNat (Nat.le_of_lt hT) hne).1
  rw [shiftIn_eq] at h
  obtain ⟨hb, -, he⟩ | ⟨-, hwrap, -⟩ | ⟨hb, -, he⟩ | ⟨hb, hwrap, he⟩ := advance_forms s
  · rw [if_neg hne] at he
    rw [hb] at h
    rw [he]
    exact trellisInv_of_forwardInv { h with } rfl rfl rfl
  · exact absurd hwrap (Nat.ne_of_lt hsi)
  · rw [if_neg hne] at he
    rw [hb] at h
    rw [he]
    exact trellisInv_of_forwardInv { h with } rfl rfl rfl
  · have hfull : ForwardInv s s.t.toNat (2 * s.stateCount) := by
      rw [hb] at h
      rwa [← hwrap]
    rw [he]
    by_cases hlast : s.t + 1 = s.nSteps
    · rw [if_pos hlast]
      exact trellisInv_of_selecting rfl h.sound fun τ st hτ =>
        hfull.finished_succ τ st (by rw [← hinc, hlast]; exact hτ)
    · rw [if_neg hlast]
      have hnext := forwardInv_nextColumn hfull (hinc ▸ (inc_toNat (hinc ▸ hT) hlast).2)
      exact trellisInv_of_forwardInv { hnext with } rfl hinc rfl

/-! ### DEC_INIT (R153) -/

theorem cellIndex_lt_trellisSize {τ st : Nat} (hτ : τ ≤ s.nSteps.toNat) (hst : st < s.stateCount) :
    s.cellIndex τ st < s.trellisSize :=
  cellIndex_lt hτ hst

theorem initTrellis_costAt {τ st : Nat} (hτ : τ ≤ s.nSteps.toNat) (hst : st < s.stateCount) :
    s.initTrellis.costAt τ st = if τ = 0 ∧ st = 0 then 0 else s.inf := by
  have hzero : s.cellIndex τ st = 0 ↔ τ = 0 ∧ st = 0 := by
    rw [← cellIndex_inj hst (stateCount_pos s), State.cellIndex, State.cellIndex, Nat.zero_mul]
  change s.initTrellis.costCell (s.cellIndex τ st) = _
  rw [initTrellis_costCell, if_pos (cellIndex_lt_trellisSize hτ hst)]
  simp only [hzero]

theorem initTrellis_bpAt_valid {τ st : Nat} (hτ : τ ≤ s.nSteps.toNat) (hst : st < s.stateCount) :
    (s.initTrellis.bpAt τ st).valid = false := by
  change (s.initTrellis.bpCell (s.cellIndex τ st)).valid = false
  rw [initTrellis_bpCell, if_pos (cellIndex_lt_trellisSize hτ hst)]

theorem reachable_initTrellis {τ st : Nat} (h : CoreInv s) (hτ : τ ≤ s.nSteps.toNat) (hst : st < s.stateCount) :
    Reachable s.initTrellis τ st ↔ τ = 0 ∧ st = 0 := by
  have hinf : 0 ≠ s.inf := Nat.ne_of_lt (inf_pos h)
  change s.initTrellis.costAt τ st ≠ s.inf ↔ _
  rw [initTrellis_costAt hτ hst]
  split
  · exact iff_of_true hinf ‹_›
  · exact iff_of_false (fun hne => hne rfl) ‹_›

/-- R153: DEC_INIT leaves cost 0 at `(0, 0)`, and no other cell reachable. -/
theorem forwardInv_initTrellis (h : CoreInv s) (hN : 0 < s.nSteps.toNat) : ForwardInv s.initTrellis 0 0 := by
  have hreach : ∀ {τ st}, τ ≤ s.nSteps.toNat → st < s.stateCount → (Reachable s.initTrellis τ st ↔ τ = 0 ∧ st = 0) :=
    reachable_initTrellis h
  refine ⟨fun τ st hτ hst hr => ?_, fun τ st hτ hst => ?_, fun st hst => ?_, fun τ st hτ hN hst => ?_⟩
  · obtain ⟨rfl, rfl⟩ := (hreach hτ hst).1 hr
    have hcost : s.initTrellis.costAt 0 0 = 0 := initTrellis_costAt (Nat.zero_le _) (stateCount_pos s)
    refine ⟨?_, fun _ => rfl, fun t' ht' => absurd ht'.symm (Nat.succ_ne_zero t')⟩
    rw [hcost]
    exact Nat.zero_le _
  · obtain rfl := Nat.le_zero.1 hτ
    rw [hreach (Nat.zero_le _) hst]
    simp
  · exact iff_of_false (fun hr => absurd ((hreach hN hst).1 hr).1 (Nat.succ_ne_zero 0)) (by simp)
  · exact fun hr => absurd ((hreach hN hst).1 hr).1 (by omega)

theorem trellisInv_startForward (h : CoreInv s) (hn : s.nSteps ≠ 0) : TrellisInv s.initTrellis.startForward :=
  have hinit := forwardInv_initTrellis h (dec_toNat hn).2
  have hstart : ForwardInv s.initTrellis.startForward 0 0 := { hinit with }
  trellisInv_of_forwardInv hstart rfl rfl rfl

/-! ### DEC_ACS (R154 to R157) -/

theorem trellisInv_skip (hinv : CoreInv s) (h : TrellisInv s) (hp : s.phase = .decAcs)
    (hcost : s.costAt s.t.toNat s.si = s.inf) : TrellisInv s.advance := by
  obtain ⟨hT, hsi⟩ := hinv.forward hp
  have hfwd := forwardInv_of_trellisInv h hp
  rw [← shiftIn_eq] at hfwd
  refine trellisInv_advance (forwardInv_skip hfwd ?_) hsi hT
  rw [shiftIn_div_two]
  exact fun hr => hr hcost

theorem trellisInv_select {seg : Nat} (hinv : CoreInv s) (h : TrellisInv s) (hp : s.phase = .decAcs)
    (hr : Reachable s s.t.toNat s.si) (hseg : seg ≤ s.gNum) :
    TrellisInv
      (s.select (s.nextState (shiftIn s.si s.b)) (satadd s.inf (s.costAt s.t.toNat s.si) seg)).advance := by
  obtain ⟨hT, hsi⟩ := hinv.forward hp
  have hfwd := forwardInv_of_trellisInv h hp
  rw [← shiftIn_eq] at hfwd
  obtain ⟨hle, -⟩ := h.sound (.inl hp) _ _ (Nat.le_of_lt hT) hsi hr
  obtain ⟨hsat, hcost, hlt⟩ := satadd_branch hle hseg hT (pathCost_lt_inf hinv (by rw [hp]; rfl))
  rw [hsat]
  have hnext := forwardInv_select hfwd hsi hr hcost hlt
  apply trellisInv_advance <;> simpa

/-! ### DEC_SEL and DEC_TB (R180 to R185) -/

/-- R181, R182: under both policies the terminal state is reachable, state 0 being so at time N. -/
theorem reachable_terminalState (hinv : CoreInv s) (h : TrellisInv s) (hp : s.phase = .decSel) :
    Reachable s s.nSteps.toNat s.terminalState := by
  have hzero : Reachable s s.nSteps.toNat 0 :=
    (h.selected hp _ 0 (Nat.le_refl _) (stateCount_pos s)).2 (Nat.two_pow_pos _)
  unfold State.terminalState
  split
  · exact hzero
  · obtain ⟨-, hmin, -⟩ := argMin_spec (s.costAt s.nSteps.toNat) (s.stateCount - 1)
    exact reachable_of_lt_inf (Nat.lt_of_le_of_lt (hmin 0 (Nat.zero_le _)) (lt_inf_of_reachable hinv hzero))

theorem trellisInv_selectTerminal (hinv : CoreInv s) (h : TrellisInv s) (hp : s.phase = .decSel) :
    TrellisInv { s with fst := s.terminalState, t := s.nSteps, phase := .decTb } :=
  have hr := reachable_terminalState hinv h hp
  trellisInv_of_tracing rfl (h.sound (.inr (.inl hp))) ⟨terminalState_lt s, hr⟩

/-- R163, R185: of a state held at a time `T ≠ 0` the entry is a transition from a reachable predecessor. -/
theorem held_entry (hinv : CoreInv s) (h : TrellisInv s) (hp : s.phase = .decTb) (hne : s.t ≠ 0) :
    (s.bpAt s.t.toNat s.fst).valid = true ∧ (s.bpAt s.t.toNat s.fst).pred < s.stateCount ∧
      Reachable s (s.t.toNat - 1) (s.bpAt s.t.toNat s.fst).pred ∧
      s.nextState (shiftIn (s.bpAt s.t.toNat s.fst).pred (s.bpAt s.t.toNat s.fst).dec) = s.fst := by
  obtain ⟨hfst, hr⟩ := h.held hp
  have hpos := (dec_toNat hne).2
  obtain ⟨-, -, hentry⟩ := h.sound (.inr (.inr hp)) _ _ (hinv.tracing hp) hfst hr
  exact hentry _ (by omega)

theorem trellisInv_traceBit (hinv : CoreInv s) (h : TrellisInv s) (hp : s.phase = .decTb) (hne : s.t ≠ 0) :
    TrellisInv (s.traceBit (s.bpAt s.t.toNat s.fst)) := by
  obtain ⟨-, hpred, hr, -⟩ := held_entry hinv h hp hne
  refine trellisInv_of_tracing hp (h.sound (.inr (.inr hp))) ⟨hpred, ?_⟩
  rw [traceBit_t, (dec_toNat hne).1]
  exact hr

/-! ### Every move keeps it -/

theorem trellisInv_execConfigure (he : execConfigure s = .next t) : TrellisInv t := by
  obtain ⟨-, rfl⟩ | ⟨-, -, rfl⟩ | ⟨-, -, -, rfl⟩ | ⟨-, -, -, rfl⟩ | ⟨-, rfl⟩ := execConfigure_cases he
  · exact trellisInv_of_noTrellis (p := .check) rfl (by decide)
  · exact trellisInv_of_idle rfl
  · exact trellisInv_of_idle rfl
  · exact trellisInv_of_noTrellis (p := .cfgCommit) rfl (by decide)
  · exact trellisInv_of_idle rfl

theorem trellisInv_execEncode (he : execEncode s = .next t) : TrellisInv t := by
  obtain ⟨-, rfl⟩ | ⟨-, -, rfl⟩ | ⟨-, -, -, rfl⟩ | ⟨-, -, -, rfl⟩ | ⟨-, -, rfl⟩ | ⟨hp, -, x, -, rfl⟩ :=
    execEncode_cases he
  · exact trellisInv_of_noTrellis (p := .check) rfl (by decide)
  · exact trellisInv_of_idle rfl
  · exact trellisInv_of_idle rfl
  · exact trellisInv_of_noTrellis (p := .encStep) rfl (by decide)
  · exact trellisInv_of_idle rfl
  · exact trellisInv_of_noTrellis ((encodeBit_phase x s).trans hp) (by decide)

theorem trellisInv_execDecode (hinv : CoreInv s) (h : TrellisInv s) (he : execDecode s = .next t) : TrellisInv t := by
  obtain ⟨-, rfl⟩ | ⟨-, -, rfl⟩ | ⟨-, -, -, rfl⟩ | ⟨-, -, -, -, rfl⟩ | ⟨-, -, -, -, rfl⟩ | ⟨-, -, rfl⟩ |
    ⟨-, hn, rfl⟩ | ⟨hp, hcost, rfl⟩ | ⟨hp, hr, seg, hseg, rfl⟩ | ⟨hp, rfl⟩ | ⟨-, -, rfl⟩ | ⟨hp, hne, -, rfl⟩ :=
    execDecode_cases he
  · exact trellisInv_of_noTrellis (p := .check) rfl (by decide)
  · exact trellisInv_of_idle rfl
  · exact trellisInv_of_idle rfl
  · exact trellisInv_of_idle rfl
  · exact trellisInv_of_noTrellis (p := .decInit) rfl (by decide)
  · exact trellisInv_of_idle rfl
  · exact trellisInv_startForward hinv hn
  · exact trellisInv_skip hinv h hp hcost
  · exact trellisInv_select hinv h hp hr (segmentCost_le hseg)
  · exact trellisInv_selectTerminal hinv h hp
  · exact trellisInv_of_idle rfl
  · exact trellisInv_traceBit hinv h hp hne

theorem exec_keeps_trellisInv {i : Instr} (hinv : CoreInv s) (h : TrellisInv s) (he : exec i s = .next t) :
    TrellisInv t := by
  cases i with
  | configure => exact trellisInv_execConfigure he
  | encode => exact trellisInv_execEncode he
  | decode => exact trellisInv_execDecode hinv h he

theorem engineStep_keeps_trellisInv (hinv : CoreInv s) (h : TrellisInv s) (he : engineStep s = .next t) :
    TrellisInv t := by
  obtain ⟨-, rfl⟩ | ⟨-, -, rfl⟩ | ⟨-, i, -, he⟩ | ⟨i, -, he⟩ := engineStep_cases he
  · exact h
  · exact trellisInv_of_idle rfl
  · exact exec_keeps_trellisInv hinv h he
  · exact exec_keeps_trellisInv hinv h he

/-- A write of the host is made in IDLE, and leaves it for CHECK at most. -/
theorem trellisInv_writeTarget (tgt : Target) (w : Word) (hp : s.phase = .idle) :
    TrellisInv (s.writeTarget tgt w) := by
  cases tgt with
  | cmd => exact trellisInv_of_noTrellis (p := .check) rfl (by decide)
  | _ => exact trellisInv_of_idle hp

theorem hostStep_keeps_trellisInv {op : HostOp} (hinv : CoreInv s) (h : TrellisInv s) (he : hostStep op s = .next t) :
    TrellisInv t := by
  cases op with
  | read a =>
    obtain ⟨-, v, -, rfl⟩ := hostRead_cases he
    exact { h with }
  | write a w =>
    obtain ⟨hb, tgt, -, rfl⟩ := hostWrite_cases he
    have hidle := phase_idle_of_not_busy hinv hb
    exact trellisInv_writeTarget (s := s.noteAccess) tgt w hidle
  | reset =>
    cases he
    exact trellisInv_of_idle rfl

/-- Settles O58: every move of the ENGINE and of the HOST keeps the trellis invariant. -/
theorem stepKeepsTrellisInv : Obligations.StepKeepsTrellisInv := by
  intro s t hinv h hstep
  have hturn : TrellisInv (takeTurn s) := { h with }
  obtain ⟨-, he⟩ | ⟨op, -, he⟩ := step_cases hstep
  · exact engineStep_keeps_trellisInv (coreInv_takeTurn hinv) hturn he
  · exact hostStep_keeps_trellisInv (coreInv_takeTurn hinv) hturn he

end Sys2Proof.Proofs
end

section
/-! PROOFS. DECODE up to one candidate of the forward pass (O24 to O31), and the decided bit (O36): what CHECK and
DEC_INIT answer, what a candidate writes, and which candidate comes next. -/

namespace Sys2Proof.Proofs

open Sys2Proof.Machine Sys2Proof.Safety Sys2Proof.Laws

variable {s t : State} {x : Nat → Bit}

/-! ### CHECK of DECODE (R151, R152) -/

theorem lengthInvalid_eq_false_iff (s : State) : s.lengthInvalid = false ↔ s.inLen.toNat % s.g.toNat = 0 := by
  rw [← Bool.not_eq_true, lengthInvalid_iff, not_not]

theorem decodeTooLarge_eq_false_iff (s : State) :
    s.decodeTooLarge = false ↔ s.inLen.toNat ≤ s.params.lMax ∧ s.inLen.toNat / s.g.toNat ≤ s.params.nMax := by
  rw [← Bool.not_eq_true, decodeTooLarge_iff, not_or, Nat.not_lt, Nat.not_lt]

theorem execDecode_of_lengthInvalid (hp : s.phase = .check) (hc : s.configured = true)
    (hdiv : s.lengthInvalid = true) : execDecode s = .next (s.endCommand .invalidInputLength) := by
  simp [execDecode, decodeCheck, raiseError, hp, hc, hdiv]

theorem execDecode_of_tooLarge (hp : s.phase = .check) (hc : s.configured = true) (hdiv : s.lengthInvalid = false)
    (hl : s.decodeTooLarge = true) : execDecode s = .next (s.endCommand .capacity) := by
  simp [execDecode, decodeCheck, raiseError, hp, hc, hdiv, hl]

theorem execDecode_of_checked (hp : s.phase = .check) (hc : s.configured = true) (hdiv : s.lengthInvalid = false)
    (hl : s.decodeTooLarge = false) : execDecode s = .next s.startDecode := by
  simp [execDecode, decodeCheck, hp, hc, hdiv, hl]

theorem endCommand_inj {c c' : ErrCode} : s.endCommand c = s.endCommand c' ↔ c = c' :=
  ⟨fun h => congrArg State.err h, fun h => h ▸ rfl⟩

/-- The two codes CHECK of DECODE can report of a configured core, in R151's order. -/
theorem execDecode_check_fails_iff {c : ErrCode} (hp : s.phase = .check) (hc : s.configured = true) :
    execDecode s = .next (s.endCommand c) ↔
      (.invalidInputLength = c ∧ s.lengthInvalid = true) ∨
      (.capacity = c ∧ s.lengthInvalid = false ∧ s.decodeTooLarge = true) := by
  cases hdiv : s.lengthInvalid with
  | true => simp [execDecode_of_lengthInvalid hp hc hdiv, endCommand_inj]
  | false =>
    cases hl : s.decodeTooLarge with
    | true => simp [execDecode_of_tooLarge hp hc hdiv hl, endCommand_inj]
    | false =>
      rw [execDecode_of_checked hp hc hdiv hl]
      refine iff_of_false (fun h => ?_) (by simp)
      cases congrArg State.phase (Host.Outcome.next.inj h)

/-- Settles O24: NOT_CONFIGURED first, then the length's remainder, then the two sizes. -/
theorem decodeChecks : Obligations.DecodeChecks := by
  refine ⟨rfl, rfl, rfl, fun s hp => ⟨exec_notConfigured (by decide) hp, fun hc => ?_, fun hc hdiv => ?_⟩⟩
  · refine (execDecode_check_fails_iff hp hc).trans ?_
    simp [lengthInvalid_iff]
  · refine (execDecode_check_fails_iff hp hc).trans ?_
    simp [(lengthInvalid_eq_false_iff s).2 hdiv, decodeTooLarge_iff]

theorem startDecode_nSteps_toNat (s : State) : s.startDecode.nSteps.toNat = s.inLen.toNat / s.gNum := by
  have hlt : s.inLen.toNat / s.gNum < 2 ^ 32 := Nat.lt_of_le_of_lt (Nat.div_le_self _ _) s.inLen.isLt
  rw [startDecode_nSteps, BitVec.toNat_ofNat, Nat.mod_eq_of_lt hlt]

/-- Settles O25: the three checks pass, and the quotient fits its word. -/
theorem decodePassesChecks : Obligations.DecodePassesChecks := fun s hp hc hdiv hlen hsteps =>
  ⟨s.startDecode, execDecode_of_checked hp hc ((lengthInvalid_eq_false_iff s).2 hdiv)
    ((decodeTooLarge_eq_false_iff s).2 ⟨hlen, hsteps⟩), startDecode_nSteps_toNat s, rfl⟩

/-! ### DEC_INIT (R153, R164) -/

theorem execDecode_of_decInit (hp : s.phase = .decInit) (hn : s.nSteps ≠ 0) :
    execDecode s = .next s.initTrellis.startForward := by
  rw [execDecode, hp]
  exact if_neg hn

theorem execDecode_of_decInit_empty (hp : s.phase = .decInit) (hn : s.nSteps = 0) :
    execDecode s = .next ({ s.initTrellis with outLen := 0 }.endCommand .none) := by
  rw [execDecode, hp]
  exact if_pos hn

/-- Settles O26: the cells by the laws of `initTrellis`, inside the running trellis and outside. -/
theorem decodeInitialises : Obligations.DecodeInitialises := fun s hp hn =>
  ⟨s.initTrellis.startForward, execDecode_of_decInit hp hn,
    fun _ _ hτ hst => ⟨initTrellis_costAt hτ hst, initTrellis_bpAt_valid hτ hst⟩,
    fun _ ha => initTrellis_cell_outside (Nat.not_lt.2 ha), rfl⟩

theorem engineStep_decode_check (hp : s.phase = .check) (ho : s.opc = 3) (hc : s.configured = true)
    (hdiv : s.lengthInvalid = false) (hl : s.decodeTooLarge = false) : engineStep s = .next s.startDecode :=
  have hd : decodeWord s.opc = .ok .decode := by rw [ho]; rfl
  (engineStep_of_check hp hd).trans (execDecode_of_checked hp hc hdiv hl)

theorem phaseCommand_of_decoding {p : Phase} (h : decoding p = true) : phaseCommand p = some .decode := by
  revert h
  cases p <;> decide

theorem engineStep_of_decoding (h : decoding s.phase = true) : engineStep s = execDecode s :=
  engineStep_of_phase (phaseCommand_of_decoding h)

/-- R153: row 0 of the trellis. -/
theorem emptyTrellis_costAt {st : Nat} (hst : st < s.stateCount) :
    s.initTrellis.costAt 0 st = if st = 0 then 0 else s.inf := by
  rw [initTrellis_costAt (Nat.zero_le _) hst]
  simp only [true_and]

/-- Settles O27: an empty input passes the checks with N = 0, and DEC_INIT then ends the command. -/
theorem decodeEmptyInput : Obligations.DecodeEmptyInput := by
  intro s hp ho hc hz
  have hlen : s.inLen.toNat = 0 := by rw [hz]; rfl
  have hdiv : s.lengthInvalid = false := (lengthInvalid_eq_false_iff s).2 (by rw [hlen, Nat.zero_mod])
  have hl : s.decodeTooLarge = false := (decodeTooLarge_eq_false_iff s).2 (by rw [hlen, Nat.zero_div]; omega)
  have hstart : s.startDecode = { s with nSteps := 0, phase := .decInit } := by
    rw [State.startDecode, hlen, Nat.zero_div]
    rfl
  have hcheck := engineStep_decode_check hp ho hc hdiv hl
  rw [hstart] at hcheck
  exact ⟨_, engineRun_two hcheck ((engineStep_of_decoding rfl).trans (execDecode_of_decInit_empty rfl rfl)),
    fun st hst => ⟨emptyTrellis_costAt hst, initTrellis_bpAt_valid (Nat.zero_le _) hst⟩, rfl⟩

/-! ### One candidate (R154 to R157) -/

theorem execDecode_of_decAcs (hp : s.phase = .decAcs) : execDecode s = decodeAcs s := by
  rw [execDecode, hp]

/-- Settles O28: the step is `advance` alone, whatever IN_MEM holds. -/
theorem unreachableStateSkipped : Obligations.UnreachableStateSkipped := fun s hp hcost =>
  ⟨s.advance, (execDecode_of_decAcs hp).trans (decodeAcs_unreachable hcost), rfl⟩

/-- R156: with the group at hand the segment cost is the branch's Hamming distance. -/
theorem decodeAcs_of_reachable (hr : Reachable s s.t.toNat s.si)
    (hx : ∀ j, j < s.gNum → Memory.read s.inMem (s.t.toNat * s.gNum + j) = some (x (s.t.toNat * s.gNum + j))) :
    decodeAcs s = .next (s.select (s.nextState (shiftIn s.si s.b))
      (satadd s.inf (s.costAt s.t.toNat s.si)
        (branchCost s x (shiftIn s.si s.b) (s.t.toNat * s.gNum)))).advance :=
  decodeAcs_ok hr (segmentCost_ok s _ _ _ _ hx)

/-- R156: what compare-and-select leaves in its own cell. -/
theorem select_cell_same {ns c : Nat} (hns : ns < s.stateCount) :
    (c < s.costAt (s.t.toNat + 1) ns →
      (s.select ns c).costAt (s.t.toNat + 1) ns = c ∧ (s.select ns c).bpAt (s.t.toNat + 1) ns = ⟨true, s.si, s.b⟩) ∧
    (¬ c < s.costAt (s.t.toNat + 1) ns →
      (s.select ns c).costAt (s.t.toNat + 1) ns = s.costAt (s.t.toNat + 1) ns ∧
      (s.select ns c).bpAt (s.t.toNat + 1) ns = s.bpAt (s.t.toNat + 1) ns) := by
  rw [select_costAt hns hns, select_bpAt hns hns]
  exact ⟨fun h => by simp [h], fun h => by simp [h]⟩

theorem select_frame (s : State) (ns c : Nat) :
    s.select ns c = { s with cost := (s.select ns c).cost, bp := (s.select ns c).bp } := by
  unfold State.select
  split <;> rfl

theorem select_cellIndex (ns c τ st : Nat) (s : State) : (s.select ns c).cellIndex τ st = s.cellIndex τ st := by
  rw [State.cellIndex, State.cellIndex, select_stateCount]

/-- Settles O29: the step is compare-and-select at `(T+1, combined mod S)`, then `advance`. -/
theorem addCompareSelect : Obligations.AddCompareSelect := by
  intro s x hp hr hx
  have hcell : (s.t.toNat + 1) * s.stateCount + (2 * s.si + s.b.toNat) % s.stateCount =
      s.cellIndex (s.t.toNat + 1) (s.nextState (shiftIn s.si s.b)) := by
    rw [nextState_eq, shiftIn_eq, State.cellIndex]
  refine ⟨_, (execDecode_of_decAcs hp).trans (decodeAcs_of_reachable hr hx), ?_, ?_⟩
  · rw [← shiftIn_eq] at hcell ⊢
    rw [hcell]
    obtain ⟨hwin, hkeep⟩ := select_cell_same (nextState_lt s (shiftIn s.si s.b))
    simp only [State.costAt, State.bpAt, select_cellIndex] at hwin hkeep
    exact ⟨hwin, hkeep, fun a ha => select_cell_ne ha⟩
  · rw [select_frame]
    rfl

/-- R157, R165: what `advance` does to the counters, in the order of the candidates. -/
theorem advance_order (s : State) :
    (s.b = 0 → s.si < s.stateCount → s.advance.b = 1 ∧ s.advance.si = s.si ∧ s.advance.t = s.t) ∧
    (s.b = 1 → s.si + 1 < s.stateCount → s.advance.b = 0 ∧ s.advance.si = s.si + 1 ∧ s.advance.t = s.t) ∧
    (s.b = 1 → s.si + 1 = s.stateCount → s.advance.b = 0 ∧ s.advance.si = 0 ∧ s.advance.t = s.t + 1) ∧
    s.advance.phase = (if s.advance.t = s.nSteps then .decSel else .decAcs) := by
  refine ⟨fun hb hsi => ?_, fun hb hsi => ?_, fun hb hsi => ?_, rfl⟩
  · simp [State.advance, hb, Nat.ne_of_lt hsi]
  · simp [State.advance, hb, Nat.ne_of_lt hsi]
  · simp [State.advance, hb, hsi]

/-- Every next state of a DEC_ACS: cells may be written, then the counters advance. -/
theorem execDecode_decAcs_cases (hp : s.phase = .decAcs) (h : execDecode s = .next t) :
    ∃ m e, t = { s with cost := m, bp := e }.advance := by
  rw [execDecode_of_decAcs hp] at h
  by_cases hr : s.costAt s.t.toNat s.si = s.inf
  · rw [decodeAcs_unreachable hr] at h
    cases h
    exact ⟨s.cost, s.bp, rfl⟩
  · cases hseg : s.segmentCost (shiftIn s.si s.b) (s.t.toNat * s.gNum) s.gNum with
    | error f =>
      rw [decodeAcs_error hr hseg] at h
      cases h
    | ok seg =>
      rw [decodeAcs_ok hr hseg, select_frame] at h
      cases h
      exact ⟨_, _, rfl⟩

/-- Settles O30: the order is that of `advance`, which looks at no cell. -/
theorem candidateOrder : Obligations.CandidateOrder := by
  intro s t hp h
  obtain ⟨m, e, rfl⟩ := execDecode_decAcs_cases hp h
  exact advance_order { s with cost := m, bp := e }

/-! ### Predecessors and the decided bit (R159, R184) -/

/-- R159: of `2*S` candidates those into `ns` are `ns` itself and `ns + S`. -/
theorem mod_eq_iff_of_lt_two_mul {c S ns : Nat} (hc : c < 2 * S) (hns : ns < S) :
    c % S = ns ↔ c = ns ∨ c = ns + S := by
  obtain hlt | hge := Nat.lt_or_ge c S
  · rw [Nat.mod_eq_of_lt hlt]
    omega
  · rw [Nat.mod_eq_sub_mod hge, Nat.mod_eq_of_lt (by omega)]
    omega

/-- Settles O31: for `K ≥ 2` the state count is even, so that adding it leaves bit 0. -/
theorem predecessorStructure : Obligations.PredecessorStructure := by
  intro s st ns x hst hns
  rw [nextState_eq]
  refine ⟨fun hk => ?_, fun hk => ?_⟩
  · have heven : s.stateCount = 2 * 2 ^ (s.k.toNat - 2) := by
      rw [State.stateCount, State.kNum, ← Nat.pow_succ']
      congr 1
      omega
    have hx := bit_toNat_le x
    rw [mod_eq_iff_of_lt_two_mul (shiftIn_lt x hst) hns, shiftIn_eq]
    omega
  · have hone : s.stateCount = 1 := by rw [State.stateCount, State.kNum, hk]; rfl
    rw [hone, Nat.mod_one]
    omega

/-- Settles O36: the held state's entry is a transition into it, whose input bit is bit 0 of the state. -/
theorem decisionBitIsLowBit : Obligations.DecisionBitIsLowBit := by
  intro s hinv h hp hne hk
  obtain ⟨hvalid, hpred, -, hnext⟩ := held_entry hinv h hp hne
  obtain ⟨hfst, -⟩ := h.held hp
  obtain ⟨hdec, -⟩ := ((predecessorStructure s _ _ _ hpred hfst).1 hk).1 hnext
  exact ⟨hvalid, hdec⟩

end Sys2Proof.Proofs
end

section
/-! PROOFS. One column of the forward pass (O32): which candidate a cell holds after the first `n`, and the run of the
ENGINE over all `2*S`. -/

namespace Sys2Proof.Proofs

open Sys2Proof.Machine Sys2Proof.Safety Sys2Proof.Laws

variable {s t u v : State} {x : Nat → Bit}

/-! ### The first of the least candidates (R158) -/

/-- Of the candidates `P` below `n`, `c` has the least cost, and is the first that has it. -/
structure IsBest (P : Nat → Prop) (f : Nat → Nat) (n c : Nat) : Prop where
  lt : c < n
  candidate : P c
  least : ∀ d, d < n → P d → f c ≤ f d
  first : ∀ d, d < c → P d → f c < f d

/-- A new candidate cheaper than all before it is the best. -/
theorem isBest_succ_self {P : Nat → Prop} {f : Nat → Nat} {n : Nat} (hn : P n)
    (h : ∀ d, d < n → P d → f n < f d) : IsBest P f (n + 1) n where
  lt := Nat.lt_succ_self n
  candidate := hn
  least := fun d hd hP =>
    (Nat.lt_succ_iff_lt_or_eq.1 hd).elim (fun hd => Nat.le_of_lt (h d hd hP)) fun hd => hd ▸ Nat.le_refl _
  first := h

/-- Otherwise the best so far stays. -/
theorem IsBest.succ {P : Nat → Prop} {f : Nat → Nat} {n c : Nat} (h : IsBest P f n c) (hle : P n → f c ≤ f n) :
    IsBest P f (n + 1) c where
  lt := Nat.lt_succ_of_lt h.lt
  candidate := h.candidate
  least := fun d hd hP =>
    (Nat.lt_succ_iff_lt_or_eq.1 hd).elim (fun hd => h.least d hd hP) fun hd => hd ▸ hle (hd ▸ hP)
  first := h.first

theorem IsBest.congr {P P' : Nat → Prop} {f f' : Nat → Nat} {n c : Nat} (h : IsBest P f n c)
    (hP : ∀ d, d < n → (P' d ↔ P d)) (hf : ∀ d, d < n → f' d = f d) : IsBest P' f' n c where
  lt := h.lt
  candidate := (hP c h.lt).2 h.candidate
  least := fun d hd hd' => by
    rw [hf c h.lt, hf d hd]
    exact h.least d hd ((hP d hd).1 hd')
  first := fun d hd hd' => by
    have hlt := Nat.lt_trans hd h.lt
    rw [hf c h.lt, hf d hlt]
    exact h.first d hd ((hP d hlt).1 hd')

/-! ### What a cell of column `T + 1` holds (R156, R158) -/

/-- Candidate `c = 2*st + b` of time step `T` comes from a reachable state and leads into `ns` (R154, R155). -/
def Leads (s : State) (T ns c : Nat) : Prop := Reachable s T (c / 2) ∧ s.nextState c = ns

/-- The cost of candidate `c` of time step `T` (R156). -/
def candidateCost (s : State) (x : Nat → Bit) (T c : Nat) : Nat :=
  s.costAt T (c / 2) + branchCost s x c (T * s.gNum)

/-- The entry that candidate `c` records (R156). -/
def candidateEntry (c : Nat) : BpEntry := { valid := true, pred := c / 2, dec := BitVec.ofNat 1 (c % 2) }

/-- R158: after the first `n` candidates of time step `T` the cell of `ns` holds cost `cost` and entry `e`: INF with
VALID = 0 if none leads there, otherwise the first of the least. -/
def CellFilled (s : State) (x : Nat → Bit) (T n ns cost : Nat) (e : BpEntry) : Prop :=
  ((∀ c, c < n → ¬ Leads s T ns c) ∧ cost = s.inf ∧ e.valid = false) ∨
  ∃ c, IsBest (Leads s T ns) (candidateCost s x T) n c ∧ cost = candidateCost s x T c ∧ e = candidateEntry c

theorem CellFilled.skip {T n ns cost : Nat} {e : BpEntry} (h : CellFilled s x T n ns cost e) (hn : ¬ Leads s T ns n) :
    CellFilled s x T (n + 1) ns cost e := by
  obtain ⟨hnone, hcell⟩ | ⟨c, hbest, hcell⟩ := h
  · refine .inl ⟨fun c hc => ?_, hcell⟩
    obtain hc | rfl := Nat.lt_succ_iff_lt_or_eq.1 hc
    · exact hnone c hc
    · exact hn
  · exact .inr ⟨c, hbest.succ fun hP => absurd hP hn, hcell⟩

/-- R156: the new candidate wins only if it is strictly cheaper than what the cell holds. -/
theorem CellFilled.take {T n ns cost : Nat} {e : BpEntry} (h : CellFilled s x T n ns cost e) (hn : Leads s T ns n)
    (hinf : candidateCost s x T n < s.inf) :
    CellFilled s x T (n + 1) ns (if candidateCost s x T n < cost then candidateCost s x T n else cost)
      (if candidateCost s x T n < cost then candidateEntry n else e) := by
  obtain ⟨hnone, rfl, -⟩ | ⟨c, hbest, rfl, rfl⟩ := h
  · rw [if_pos hinf, if_pos hinf]
    exact .inr ⟨n, isBest_succ_self hn fun d hd hd' => absurd hd' (hnone d hd), rfl, rfl⟩
  · by_cases hlt : candidateCost s x T n < candidateCost s x T c
    · rw [if_pos hlt, if_pos hlt]
      exact .inr ⟨n, isBest_succ_self hn fun d hd hd' => Nat.lt_of_lt_of_le hlt (hbest.least d hd hd'), rfl, rfl⟩
    · rw [if_neg hlt, if_neg hlt]
      exact .inr ⟨c, hbest.succ fun _ => Nat.le_of_not_lt hlt, rfl, rfl⟩

/-! ### What the forward pass does not write (R72, R155) -/

/-- `u` is `s` but for the trellis cells, the counters of the forward pass and PHASE. -/
def ForwardFrame (s u : State) : Prop :=
  u = { s with cost := u.cost, bp := u.bp, t := u.t, si := u.si, b := u.b, phase := u.phase }

namespace ForwardFrame

theorem refl (s : State) : ForwardFrame s s := rfl

theorem trans (h : ForwardFrame s u) (h' : ForwardFrame u v) : ForwardFrame s v := by
  unfold ForwardFrame at h h'
  rw [h] at h'
  exact h'

theorem of_advance (s : State) : ForwardFrame s s.advance := rfl

theorem inMem (h : ForwardFrame s u) : u.inMem = s.inMem := by rw [h]
theorem outMem (h : ForwardFrame s u) : u.outMem = s.outMem := by rw [h]
theorem inLen (h : ForwardFrame s u) : u.inLen = s.inLen := by rw [h]
theorem nSteps (h : ForwardFrame s u) : u.nSteps = s.nSteps := by rw [h]
theorem gNum (h : ForwardFrame s u) : u.gNum = s.gNum := by rw [h]; rfl
theorem inf (h : ForwardFrame s u) : u.inf = s.inf := by rw [h]; rfl
theorem stateCount (h : ForwardFrame s u) : u.stateCount = s.stateCount := by rw [h]; rfl
theorem nextState (h : ForwardFrame s u) (c : Nat) : u.nextState c = s.nextState c := by rw [h]; rfl
theorem branchCost (h : ForwardFrame s u) (c base : Nat) : branchCost u x c base = branchCost s x c base := by
  rw [h]; rfl

theorem same (h : ForwardFrame s u) : SameStaged s u ∧ SameActive s u ∧ SameHost s u ∧ SameInput s u := by
  rw [h]
  exact ⟨⟨rfl, rfl, rfl, rfl, rfl⟩, ⟨rfl, rfl, rfl, rfl, rfl⟩, ⟨rfl, rfl, rfl, rfl, rfl⟩, fun _ => rfl⟩

end ForwardFrame

/-- R154: reachability of a column that is as before. -/
theorem ForwardFrame.reachable_iff {T st : Nat} (h : ForwardFrame s u) (hcost : u.costAt T st = s.costAt T st) :
    Reachable u T st ↔ Reachable s T st := by
  rw [Reachable, Reachable, hcost, h.inf]

/-- What a cell holds depends on the column before it and the configuration only. -/
theorem CellFilled.of_sameColumn {T n ns cost : Nat} {e : BpEntry} (h : CellFilled s x T n ns cost e)
    (hf : ForwardFrame s u) (hn : n ≤ 2 * s.stateCount)
    (hcol : ∀ st, st < s.stateCount → u.costAt T st = s.costAt T st) : CellFilled u x T n ns cost e := by
  have hdiv : ∀ d, d < n → u.costAt T (d / 2) = s.costAt T (d / 2) := fun d hd => hcol _ (by omega)
  have hleads : ∀ d, d < n → (Leads u T ns d ↔ Leads s T ns d) := fun d hd => by
    rw [Leads, Leads, hf.reachable_iff (hdiv d hd), hf.nextState]
  have hcost : ∀ d, d < n → candidateCost u x T d = candidateCost s x T d := fun d hd => by
    rw [candidateCost, candidateCost, hdiv d hd, hf.branchCost, hf.gNum]
  obtain ⟨hnone, hinf, he⟩ | ⟨c, hbest, hc, he⟩ := h
  · exact .inl ⟨fun d hd => (hleads d hd).not.2 (hnone d hd), hinf.trans hf.inf.symm, he⟩
  · exact .inr ⟨c, hbest.congr hleads hcost, hc.trans (hcost c hbest.lt).symm, he⟩

/-! ### One candidate (R154 to R156) -/

/-- R156: the trellis after the candidate at hand, before the counters move. -/
def takeCandidate (x : Nat → Bit) (s : State) : State :=
  if s.costAt s.t.toNat s.si = s.inf then s
  else s.select (s.nextState (shiftIn s.si s.b))
    (satadd s.inf (s.costAt s.t.toNat s.si) (branchCost s x (shiftIn s.si s.b) (s.t.toNat * s.gNum)))

theorem takeCandidate_frame (x : Nat → Bit) (s : State) :
    takeCandidate x s = { s with cost := (takeCandidate x s).cost, bp := (takeCandidate x s).bp } := by
  unfold takeCandidate
  split
  · rfl
  · exact select_frame _ _ _

theorem ForwardFrame.of_takeCandidate (x : Nat → Bit) (s : State) : ForwardFrame s (takeCandidate x s) := by
  rw [ForwardFrame, takeCandidate_frame]

theorem takeCandidate_t (x : Nat → Bit) (s : State) : (takeCandidate x s).t = s.t := by rw [takeCandidate_frame]
theorem takeCandidate_si (x : Nat → Bit) (s : State) : (takeCandidate x s).si = s.si := by rw [takeCandidate_frame]
theorem takeCandidate_b (x : Nat → Bit) (s : State) : (takeCandidate x s).b = s.b := by rw [takeCandidate_frame]

/-- R154 to R157: a DEC_ACS whose group holds values takes the candidate and moves on. -/
theorem decodeAcs_of_group
    (hx : ∀ j, j < s.gNum → Memory.read s.inMem (s.t.toNat * s.gNum + j) = some (x (s.t.toNat * s.gNum + j))) :
    decodeAcs s = .next (takeCandidate x s).advance := by
  unfold takeCandidate
  split
  · exact decodeAcs_unreachable ‹_›
  · exact decodeAcs_of_reachable ‹_› hx

theorem branchCost_le (s : State) (x : Nat → Bit) (c base : Nat) : branchCost s x c base ≤ s.gNum := hamming_le _ _ _

theorem ofNat_shiftIn_mod_two (st : Nat) (b : Bit) : BitVec.ofNat 1 (shiftIn st b % 2) = b := by
  apply BitVec.eq_of_toNat_eq
  have hb := bit_toNat_le b
  rw [BitVec.toNat_ofNat, shiftIn_eq]
  omega

theorem candidateEntry_shiftIn (st : Nat) (b : Bit) : candidateEntry (shiftIn st b) = ⟨true, st, b⟩ := by
  rw [candidateEntry, shiftIn_div_two, ofNat_shiftIn_mod_two]

/-! ### The cells of a column being filled -/

/-- The cells of `u`, after the first `n` candidates of the time step at which `s` starts: column `T + 1` is filled so
far, every other cell is as in `s`. -/
structure ColumnCells (s : State) (x : Nat → Bit) (n : Nat) (u : State) : Prop where
  filled : ∀ ns, ns < s.stateCount →
    CellFilled s x s.t.toNat n ns (u.costAt (s.t.toNat + 1) ns) (u.bpAt (s.t.toNat + 1) ns)
  kept : ∀ τ st, τ ≠ s.t.toNat + 1 → st < s.stateCount → u.costAt τ st = s.costAt τ st ∧ u.bpAt τ st = s.bpAt τ st

/-- R158: before the first candidate column `T + 1` is unreachable (R162) and, by premise, invalid. -/
theorem columnCells_start (h : TrellisInv s) (hp : s.phase = .decAcs) (hsi : s.si = 0)
    (hb : s.b = 0) (hfresh : ∀ st, st < s.stateCount → (s.bpAt (s.t.toNat + 1) st).valid = false) :
    ColumnCells s x 0 s where
  filled := fun ns hns => by
    refine .inl ⟨fun c hc => absurd hc (Nat.not_lt_zero c), ?_, hfresh ns hns⟩
    by_contra hr
    obtain ⟨c, hc, -⟩ := (h.filling hp ns hns).1 hr
    simp [hsi, hb] at hc
  kept := fun _ _ _ _ => ⟨rfl, rfl⟩

/-- R161: the cost of a reachable candidate does not saturate. -/
theorem candidateCost_finite (hinv : CoreInv s) (h : TrellisInv s) (hp : s.phase = .decAcs) {c : Nat}
    (hc : c < 2 * s.stateCount) (hr : Reachable s s.t.toNat (c / 2)) : candidateCost s x s.t.toNat c < s.inf := by
  obtain ⟨hT, -⟩ := hinv.forward hp
  obtain ⟨hle, -⟩ := h.sound (.inl hp) _ _ (Nat.le_of_lt hT) (by omega : c / 2 < s.stateCount) hr
  obtain ⟨-, -, hlt⟩ := satadd_branch hle (branchCost_le s x c (s.t.toNat * s.gNum)) hT
    (pathCost_lt_inf hinv (by rw [hp]; rfl))
  exact hlt

theorem columnCells_takeCandidate (hinv : CoreInv s) (htr : TrellisInv s) (hp : s.phase = .decAcs)
    (hf : ForwardFrame s u) (ht : u.t = s.t) (hlt : shiftIn u.si u.b < 2 * s.stateCount)
    (h : ColumnCells s x (shiftIn u.si u.b) u) : ColumnCells s x (shiftIn u.si u.b + 1) (takeCandidate x u) := by
  have hsi : u.si < s.stateCount := by
    rw [shiftIn_eq] at hlt
    omega
  have hsrc : u.costAt s.t.toNat u.si = s.costAt s.t.toNat u.si :=
    (h.kept _ _ (Nat.ne_of_lt (Nat.lt_succ_self _)) hsi).1
  unfold takeCandidate
  rw [ht, hsrc, hf.inf, hf.nextState, hf.branchCost, hf.gNum]
  split
  · rename_i hcost
    refine ⟨fun ns hns => (h.filled ns hns).skip fun hl => hl.1 ?_, h.kept⟩
    rwa [shiftIn_div_two]
  · rename_i hcost
    have hr : Reachable s s.t.toNat (shiftIn u.si u.b / 2) := by rwa [shiftIn_div_two]
    have hfin := candidateCost_finite (x := x) hinv htr hp hlt hr
    have hsat : satadd s.inf (s.costAt s.t.toNat u.si) (branchCost s x (shiftIn u.si u.b) (s.t.toNat * s.gNum)) =
        candidateCost s x s.t.toNat (shiftIn u.si u.b) := by
      rw [candidateCost, shiftIn_div_two] at hfin ⊢
      exact Nat.min_eq_left (Nat.le_of_lt hfin)
    rw [hsat]
    have hns' : s.nextState (shiftIn u.si u.b) < u.stateCount := by
      rw [hf.stateCount]
      exact nextState_lt s _
    refine ⟨fun ns hns => ?_, fun τ st hτ hst => ?_⟩
    · rw [select_costAt hns' (by rwa [hf.stateCount]), select_bpAt hns' (by rwa [hf.stateCount]), ht]
      by_cases hlead : s.nextState (shiftIn u.si u.b) = ns
      · subst hlead
        simp only [true_and, ← candidateEntry_shiftIn]
        exact (h.filled _ hns).take ⟨hr, rfl⟩ hfin
      · rw [if_neg fun hwin => hlead hwin.2.1.symm, if_neg fun hwin => hlead hwin.2.1.symm]
        exact (h.filled ns hns).skip fun hl => hlead hl.2
    · rw [select_costAt hns' (by rwa [hf.stateCount]), select_bpAt hns' (by rwa [hf.stateCount]), ht,
        if_neg fun hwin => hτ hwin.1, if_neg fun hwin => hτ hwin.1]
      exact h.kept τ st hτ hst

/-! ### The counters within a column (R157) -/

/-- Short of the column's end the counters move to the next candidate. -/
theorem advance_next (hT : s.t ≠ s.nSteps) (h : shiftIn s.si s.b + 1 < 2 * s.stateCount) :
    shiftIn s.advance.si s.advance.b = shiftIn s.si s.b + 1 ∧ s.advance.t = s.t ∧ s.advance.phase = .decAcs := by
  obtain ⟨hzero, hone, -, hphase⟩ := advance_order s
  rw [shiftIn_eq] at h
  obtain hb | hb := bit_eq_zero_or_one s.b
  · obtain ⟨hb', hsi', ht'⟩ := hzero hb (by omega)
    rw [hphase, hb', hsi', ht', hb]
    exact ⟨by simp [shiftIn_eq], rfl, if_neg hT⟩
  · have hbit : s.b.toNat = 1 := congrArg BitVec.toNat hb
    obtain ⟨hb', hsi', ht'⟩ := hone hb (by omega)
    rw [hphase, hb', hsi', ht', hb]
    exact ⟨by simp [shiftIn_eq]; omega, rfl, if_neg hT⟩

/-- At the column's end they start the next one, or hand over to DEC_SEL (R165). -/
theorem advance_last (h : shiftIn s.si s.b + 1 = 2 * s.stateCount) :
    s.advance.si = 0 ∧ s.advance.b = 0 ∧ s.advance.t = s.t + 1 ∧
      s.advance.phase = if s.t + 1 = s.nSteps then .decSel else .decAcs := by
  obtain ⟨-, -, hlast, hphase⟩ := advance_order s
  have hbit := bit_toNat_le s.b
  rw [shiftIn_eq] at h
  have hb : s.b = 1 := BitVec.eq_of_toNat_eq (by simp; omega)
  obtain ⟨hb', hsi', ht'⟩ := hlast hb (by omega)
  exact ⟨hsi', hb', ht', by rw [hphase, ht']⟩

/-! ### The run over a column (R157, R158) -/

theorem engineRun_add {m n : Nat} (h : engineRun m s = .next u) : engineRun (m + n) s = engineRun n u := by
  induction m generalizing s with
  | zero =>
    cases h
    rw [Nat.zero_add]
  | succ m ih =>
    obtain ⟨w, hw, hrun⟩ := engineStep_of_engineRun h
    rw [Nat.add_right_comm, engineRun_succ _ hw, ih hrun]

/-- R151, R155: the group of a time step lies within the input. -/
theorem group_holds (hinv : CoreInv s) (hp : s.phase = .decAcs) (hx : Holds s.inMem x s.inLen.toNat) {j : Nat}
    (hj : j < s.gNum) : Memory.read s.inMem (s.t.toNat * s.gNum + j) = some (x (s.t.toNat * s.gNum + j)) := by
  obtain ⟨hT, -⟩ := hinv.forward hp
  obtain ⟨-, -, hlen⟩ := hinv.decodingSize (by rw [hp]; rfl)
  have hcol : (s.t.toNat + 1) * s.gNum ≤ s.nSteps.toNat * s.gNum := Nat.mul_le_mul_right _ hT
  rw [Nat.succ_mul] at hcol
  exact hx _ (by omega)

/-- `u` is `s` after the first `n` candidates of its time step, the next one at hand. -/
structure ColumnProgress (s : State) (x : Nat → Bit) (n : Nat) (u : State) : Prop where
  frame : ForwardFrame s u
  t : u.t = s.t
  phase : u.phase = .decAcs
  position : shiftIn u.si u.b = n
  cells : ColumnCells s x n u

/-- `u` is `s` after all candidates of its time step. -/
structure ColumnDone (s : State) (x : Nat → Bit) (u : State) : Prop where
  frame : ForwardFrame s u
  t : u.t = s.t + 1
  si : u.si = 0
  b : u.b = 0
  phase : u.phase = if s.t + 1 = s.nSteps then .decSel else .decAcs
  cells : ColumnCells s x (2 * s.stateCount) u

section Column

/- `s` starts a time step of a DECODE of `x`. -/
variable (hinv : CoreInv s) (htr : TrellisInv s) (hp : s.phase = .decAcs) (hx : Holds s.inMem x s.inLen.toNat)

include hinv hp hx in
theorem engineStep_column {n : Nat} (h : ColumnProgress s x n u) :
    engineStep u = .next (takeCandidate x u).advance := by
  have hdec : decoding u.phase = true := by rw [h.phase]; rfl
  rw [engineStep_of_decoding hdec, execDecode_of_decAcs h.phase]
  refine decodeAcs_of_group fun j hj => ?_
  rw [h.frame.gNum] at hj ⊢
  rw [h.frame.inMem, h.t]
  exact group_holds hinv hp hx hj

include hinv htr hp in
/-- A candidate that is not the last leaves the next one at hand. -/
theorem ColumnProgress.succ {n : Nat} (h : ColumnProgress s x n u) (hn : n + 1 < 2 * s.stateCount) :
    ColumnProgress s x (n + 1) (takeCandidate x u).advance := by
  obtain ⟨hT, -⟩ := hinv.forward hp
  have hf := h.frame.trans (.of_takeCandidate x u)
  have hcells := columnCells_takeCandidate hinv htr hp h.frame h.t (by rw [h.position]; omega)
    (h.position.symm ▸ h.cells)
  have hne : (takeCandidate x u).t ≠ (takeCandidate x u).nSteps := by
    rw [takeCandidate_t, h.t, hf.nSteps]
    exact fun e => Nat.ne_of_lt hT (congrArg BitVec.toNat e)
  obtain ⟨hpos, ht, hphase⟩ := advance_next hne (by
    rw [takeCandidate_si, takeCandidate_b, h.position, hf.stateCount]; exact hn)
  rw [takeCandidate_si, takeCandidate_b, h.position] at hpos
  rw [takeCandidate_t, h.t] at ht
  exact ⟨hf.trans (.of_advance _), ht, hphase, hpos, { h.position ▸ hcells with }⟩

include hinv htr hp in
/-- The last candidate ends the column. -/
theorem ColumnProgress.last {n : Nat} (h : ColumnProgress s x n u) (hn : n + 1 = 2 * s.stateCount) :
    ColumnDone s x (takeCandidate x u).advance := by
  have hf := h.frame.trans (.of_takeCandidate x u)
  have hcells := columnCells_takeCandidate hinv htr hp h.frame h.t (by rw [h.position]; omega)
    (h.position.symm ▸ h.cells)
  obtain ⟨hsi, hb, ht, hphase⟩ := advance_last (s := takeCandidate x u) (by
    rw [takeCandidate_si, takeCandidate_b, h.position, hf.stateCount]; exact hn)
  rw [takeCandidate_t, h.t] at ht hphase
  rw [hf.nSteps] at hphase
  rw [h.position, hn] at hcells
  exact ⟨hf.trans (.of_advance _), ht, hsi, hb, hphase, { hcells with }⟩

include hinv htr hp hx in
/-- The candidates that are left take a step each. -/
theorem engineRun_columnProgress {m n : Nat} (h : ColumnProgress s x n u) (hn : n + (m + 1) = 2 * s.stateCount) :
    ∃ v, engineRun (m + 1) u = .next v ∧ ColumnDone s x v := by
  induction m generalizing n u with
  | zero => exact ⟨_, engineRun_succ 0 (engineStep_column hinv hp hx h), h.last hinv htr hp hn⟩
  | succ m ih =>
    obtain ⟨v, hrun, hv⟩ := ih (h.succ hinv htr hp (by omega)) (by omega)
    exact ⟨v, (engineRun_succ _ (engineStep_column hinv hp hx h)).trans hrun, hv⟩

include hinv htr hp hx in
theorem engineRun_column (hsi : s.si = 0) (hb : s.b = 0)
    (hfresh : ∀ st, st < s.stateCount → (s.bpAt (s.t.toNat + 1) st).valid = false) :
    ∃ v, engineRun (2 * s.stateCount) s = .next v ∧ ColumnDone s x v := by
  have hS := stateCount_pos s
  have hlen : 2 * s.stateCount = 2 * s.stateCount - 1 + 1 := by omega
  rw [hlen]
  exact engineRun_columnProgress hinv htr hp hx
    ⟨.refl s, rfl, hp, by rw [hsi, hb]; rfl, columnCells_start htr hp hsi hb hfresh⟩ (by omega)

end Column

/-- Settles O32: the column is filled by all its candidates, and a filled cell is the order-free form. -/
theorem forwardColumn : Obligations.ForwardColumn := by
  intro s x hinv htr hp hsi hb hfresh hx
  obtain ⟨v, hrun, hv⟩ := engineRun_column hinv htr hp hx hsi hb hfresh
  refine ⟨v, hrun, hv.t, hv.si, hv.b, fun st hst => (hv.cells.kept _ _ (Nat.ne_of_lt (Nat.lt_succ_self _)) hst).1,
    fun ns hns => ?_⟩
  obtain ⟨hnone, hcost, he⟩ | ⟨c, hbest, hcost, he⟩ := hv.cells.filled ns hns
  · exact ⟨fun _ => ⟨hcost, he⟩, fun ⟨c, hc, hr, hnext⟩ => absurd ⟨hr, hnext⟩ (hnone c hc)⟩
  · obtain ⟨hlt, ⟨hr, hnext⟩, hleast, hfirst⟩ := hbest
    rw [hcost, he]
    exact ⟨fun hnone => absurd hnext (hnone c hlt hr), fun _ => ⟨c, hlt, hr, hnext, rfl, rfl,
      fun d hd hrd hnd => hleast d hd ⟨hrd, hnd⟩, fun d hd hrd hnd => hfirst d hd ⟨hrd, hnd⟩⟩⟩

end Sys2Proof.Proofs
end

section
/-! PROOFS. The run of a whole DECODE (O39): the forward pass column by column, terminal selection, and traceback as
an induction over the time steps that are left. -/

namespace Sys2Proof.Proofs

open Sys2Proof.Machine Sys2Proof.Safety Sys2Proof.Laws

variable {s t u v : State} {x : Nat → Bit}

/-! ### The invariants along a run of the ENGINE -/

theorem engineRun_keeps_invariants {n : Nat} (hinv : CoreInv s) (htr : TrellisInv s) (h : engineRun n s = .next t) :
    CoreInv t ∧ TrellisInv t := by
  induction n generalizing s with
  | zero =>
    cases h
    exact ⟨hinv, htr⟩
  | succ n ih =>
    obtain ⟨u, hu, hrun⟩ := engineStep_of_engineRun h
    exact ih (engineStep_keeps_coreInv hinv hu) (engineStep_keeps_trellisInv hinv htr hu) hrun

/-! ### The forward pass (R157, R165) -/

/-- `u` is at the start of a column of the forward pass that began in `s`, or at its hand-over to DEC_SEL: every
column up to T is filled by all its candidates, every later one is invalid. -/
structure ForwardProgress (s : State) (x : Nat → Bit) (u : State) : Prop where
  frame : ForwardFrame s u
  si : u.si = 0
  b : u.b = 0
  le : u.t.toNat ≤ u.nSteps.toNat
  phase : u.phase = if u.t = u.nSteps then .decSel else .decAcs
  columns : ∀ τ ns, τ < u.t.toNat → ns < u.stateCount →
    CellFilled u x τ (2 * u.stateCount) ns (u.costAt (τ + 1) ns) (u.bpAt (τ + 1) ns)
  fresh : ∀ τ st, u.t.toNat < τ → τ ≤ u.nSteps.toNat → st < u.stateCount → (u.bpAt τ st).valid = false

theorem forwardProgress_start (x : Nat → Bit) (hn : s.nSteps ≠ 0) :
    ForwardProgress s.initTrellis.startForward x s.initTrellis.startForward where
  frame := .refl _
  si := rfl
  b := rfl
  le := Nat.zero_le _
  phase := (if_neg hn.symm).symm
  columns := fun τ _ hτ => absurd hτ (Nat.not_lt_zero τ)
  fresh := fun _ _ _ hτ hst => initTrellis_bpAt_valid hτ hst

/-- R157: one column more. -/
theorem ForwardProgress.column (h : ForwardProgress s x u) (hlt : u.t.toNat < u.nSteps.toNat)
    (hv : ColumnDone u x v) : ForwardProgress s x v := by
  have hne : u.t ≠ u.nSteps := fun e => Nat.ne_of_lt hlt (congrArg BitVec.toNat e)
  have hinc : v.t.toNat = u.t.toNat + 1 := by
    rw [hv.t]
    exact (inc_toNat (Nat.le_of_lt hlt) hne).1
  refine ⟨h.frame.trans hv.frame, hv.si, hv.b, ?_, ?_, fun τ ns hτ hns => ?_, fun τ st hτ hN hst => ?_⟩
  · rw [hinc, hv.frame.nSteps]
    exact hlt
  · rw [hv.phase, hv.t, hv.frame.nSteps]
  · rw [hinc] at hτ
    rw [hv.frame.stateCount] at hns ⊢
    have hcol : ∀ st, st < u.stateCount → v.costAt τ st = u.costAt τ st := fun st hst =>
      (hv.cells.kept τ st (by omega) hst).1
    obtain hτ | rfl := Nat.lt_succ_iff_lt_or_eq.1 hτ
    · obtain ⟨hcost, he⟩ := hv.cells.kept (τ + 1) ns (by omega) hns
      rw [hcost, he]
      exact (h.columns τ ns hτ hns).of_sameColumn hv.frame (Nat.le_refl _) hcol
    · exact (hv.cells.filled ns hns).of_sameColumn hv.frame (Nat.le_refl _) hcol
  · rw [hinc] at hτ
    rw [hv.frame.nSteps] at hN
    rw [hv.frame.stateCount] at hst
    rw [(hv.cells.kept τ st (by omega) hst).2]
    exact h.fresh τ st (by omega) hN hst

/-- The `n` columns that are left take `2*S` steps each (R241). -/
theorem engineRun_forward {n : Nat} (hinv : CoreInv u) (htr : TrellisInv u) (hx : Holds u.inMem x u.inLen.toNat)
    (h : ForwardProgress s x u) (hn : u.nSteps.toNat = u.t.toNat + n) :
    ∃ v, engineRun (n * (2 * u.stateCount)) u = .next v ∧ ForwardProgress s x v ∧ v.t = v.nSteps := by
  induction n generalizing u with
  | zero => exact ⟨u, by rw [Nat.zero_mul]; rfl, h, BitVec.eq_of_toNat_eq hn.symm⟩
  | succ n ih =>
    have hlt : u.t.toNat < u.nSteps.toNat := by omega
    have hne : u.t ≠ u.nSteps := fun e => Nat.ne_of_lt hlt (congrArg BitVec.toNat e)
    have hp : u.phase = .decAcs := by rw [h.phase, if_neg hne]
    obtain ⟨w, hw, hdone⟩ := engineRun_column hinv htr hp hx h.si h.b fun st hst =>
      h.fresh _ st (Nat.lt_succ_self _) hlt hst
    obtain ⟨hinvw, htrw⟩ := engineRun_keeps_invariants hinv htr hw
    have hleft : w.nSteps.toNat = w.t.toNat + n := by
      rw [hdone.frame.nSteps, hdone.t, (inc_toNat (Nat.le_of_lt hlt) hne).1]
      omega
    obtain ⟨v, hrun, hv, hlast⟩ :=
      ih hinvw htrw (by rwa [hdone.frame.inMem, hdone.frame.inLen]) (h.column hlt hdone) hleft
    rw [hdone.frame.stateCount] at hrun
    exact ⟨v, by rw [Nat.succ_mul, Nat.add_comm, engineRun_add hw, hrun], hv, hlast⟩

/-! ### Traceback (R183 to R186) -/

/-- The bit that traceback from the state `st` held at time `τ` writes at index `i`, over the entries `bp` (R183). -/
def decodedBit (bp : Nat → Nat → BpEntry) (τ st i : Nat) : Bit :=
  match τ with
  | 0 => 0
  | τ + 1 => if i = τ then (bp (τ + 1) st).dec else decodedBit bp τ (bp (τ + 1) st).pred i

/-- `v` is the end of the DECODE whose traceback `u` is in: the bits below T are decoded, the rest of OUT_MEM is as
before. -/
structure Traced (u v : State) : Prop where
  frame : v = { u with outMem := v.outMem, fst := v.fst, t := v.t }.finishDecode
  decoded : ∀ i, i < u.t.toNat → Memory.read v.outMem i = some (decodedBit u.bpAt u.t.toNat u.fst i)
  kept : ∀ a, u.t.toNat ≤ a → Memory.read v.outMem a = Memory.read u.outMem a

theorem execDecode_of_traced (hp : s.phase = .decTb) (ht : s.t = 0) : execDecode s = .next s.finishDecode := by
  rw [execDecode, hp]
  exact if_pos ht

theorem execDecode_of_decTb (hp : s.phase = .decTb) (ht : s.t ≠ 0) (hvalid : (s.bpAt s.t.toNat s.fst).valid = true) :
    execDecode s = .next (s.traceBit (s.bpAt s.t.toNat s.fst)) := by
  rw [execDecode, hp]
  exact (if_neg ht).trans (if_pos hvalid)

/-- One traceback step leaves one time step less. -/
theorem traceBit_t_toNat {n : Nat} (e : BpEntry) (hn : u.t.toNat = n + 1) : u.t ≠ 0 ∧ (u.traceBit e).t.toNat = n := by
  have hne : u.t ≠ 0 := fun h0 => by simp [h0] at hn
  rw [traceBit_t, (dec_toNat hne).1, hn, Nat.add_sub_cancel]
  exact ⟨hne, rfl⟩

theorem traced_finishDecode (ht : u.t.toNat = 0) : Traced u u.finishDecode where
  frame := rfl
  decoded := fun i hi => absurd hi (by omega)
  kept := fun _ _ => rfl

/-- R183: a traceback that goes on from the predecessor decodes the held state's bit on top. -/
theorem Traced.of_traceBit {n : Nat} (hn : u.t.toNat = n + 1) (h : Traced (u.traceBit (u.bpAt u.t.toNat u.fst)) v) :
    Traced u v := by
  obtain ⟨-, ht⟩ := traceBit_t_toNat (u.bpAt u.t.toNat u.fst) hn
  obtain ⟨hframe, hdecoded, hkept⟩ := h
  rw [ht] at hdecoded hkept
  refine ⟨hframe, fun i hi => ?_, fun a ha => ?_⟩
  · rw [hn] at hi ⊢
    rw [decodedBit]
    split
    · subst i
      rw [hkept n (Nat.le_refl n), traceBit_outMem, hn, Nat.add_sub_cancel, Memory_read_write_same]
    · rw [hdecoded i (by omega), ← hn]
      rfl
  · rw [hkept a (by omega), traceBit_outMem, Memory_read_write_ne _ _ (by omega)]

/-- The `n` time steps that are left take a step each, and completion one more (R241). -/
theorem engineRun_traceback {n : Nat} (hinv : CoreInv u) (htr : TrellisInv u) (hp : u.phase = .decTb)
    (hn : u.t.toNat = n) : ∃ v, engineRun (n + 1) u = .next v ∧ Traced u v := by
  have hstep : engineStep u = execDecode u := engineStep_of_decoding (by rw [hp]; rfl)
  induction n generalizing u with
  | zero =>
    have ht : u.t = 0 := BitVec.eq_of_toNat_eq hn
    exact ⟨_, engineRun_succ 0 (hstep.trans (execDecode_of_traced hp ht)), traced_finishDecode hn⟩
  | succ n ih =>
    obtain ⟨hne, ht⟩ := traceBit_t_toNat (u.bpAt u.t.toNat u.fst) hn
    obtain ⟨hvalid, -⟩ := held_entry hinv htr hp hne
    have hbit := hstep.trans (execDecode_of_decTb hp hne hvalid)
    obtain ⟨v, hrun, hv⟩ := ih (engineStep_keeps_coreInv hinv hbit) (engineStep_keeps_trellisInv hinv htr hbit) hp ht
      (engineStep_of_decoding (by rw [traceBit_phase, hp]; rfl))
    exact ⟨v, (engineRun_succ _ hbit).trans hrun, hv.of_traceBit hn⟩

/-! ### The whole command (R150, R241) -/

/-- A DECODE of the non-empty input `x` in CHECK, past its checks. -/
structure DecodeReady (s : State) (x : Nat → Bit) : Prop where
  inv : CoreInv s
  phase : s.phase = .check
  opc : s.opc = 3
  configured : s.configured = true
  wholeGroups : s.inLen.toNat % s.gNum = 0
  fits : s.inLen.toNat ≤ s.params.lMax ∧ s.inLen.toNat / s.gNum ≤ s.params.nMax
  nonempty : 1 ≤ s.inLen.toNat
  holds : Holds s.inMem x s.inLen.toNat

/-- `u` is the DECODE of `s` at the end of its forward pass, `v` at its completion. -/
structure DecodeRun (s : State) (x : Nat → Bit) (u v : State) : Prop where
  forward : ForwardProgress s.startDecode.initTrellis.startForward x u
  inv : CoreInv u
  trellis : TrellisInv u
  phase : u.phase = .decSel
  full : u.t = u.nSteps
  traced : Traced { u with fst := u.terminalState, t := u.nSteps, phase := .decTb } v

theorem DecodeReady.steps_pos (h : DecodeReady s x) : 0 < s.inLen.toNat / s.gNum :=
  have hpos : 0 < s.inLen.toNat := h.nonempty
  have ⟨_, hg, _⟩ := h.inv.configuredRange h.configured
  Nat.div_pos (Nat.le_of_dvd hpos (Nat.dvd_of_mod_eq_zero h.wholeGroups)) hg

/-- The first two steps of a DECODE, CHECK and DEC_INIT. -/
theorem DecodeReady.engineRun_start (h : DecodeReady s x) :
    engineRun 2 s = .next s.startDecode.initTrellis.startForward ∧ s.startDecode.nSteps ≠ 0 := by
  have hn : s.startDecode.nSteps ≠ 0 := fun e => by
    have hpos := h.steps_pos
    rw [← startDecode_nSteps_toNat, e] at hpos
    exact absurd hpos (Nat.lt_irrefl 0)
  have hcheck := engineStep_decode_check h.phase h.opc h.configured ((lengthInvalid_eq_false_iff s).2 h.wholeGroups)
    ((decodeTooLarge_eq_false_iff s).2 h.fits)
  exact ⟨engineRun_two hcheck ((engineStep_of_decoding rfl).trans (execDecode_of_decInit rfl hn)), hn⟩

/-- Before DEC_ACS the trellis invariant asks nothing. -/
theorem DecodeReady.trellisInv (h : DecodeReady s x) : TrellisInv s :=
  trellisInv_of_noTrellis h.phase (by decide)

/-- R165, R180: DEC_SEL is one step. -/
theorem engineStep_decSel (hp : s.phase = .decSel) :
    engineStep s = .next { s with fst := s.terminalState, t := s.nSteps, phase := .decTb } := by
  rw [engineStep_of_decoding (by rw [hp]; rfl), execDecode, hp]
  rfl

/-- R166, R241: a DECODE past its checks completes, in the steps R241 counts. -/
theorem DecodeReady.engineRun_decode (h : DecodeReady s x) :
    ∃ u v, DecodeRun s x u v ∧
      engineRun (2 + 2 * (s.inLen.toNat / s.gNum) * s.stateCount + 1 + (s.inLen.toNat / s.gNum + 1)) s = .next v := by
  obtain ⟨hstart, hn⟩ := h.engineRun_start
  obtain ⟨hinv, htr⟩ := engineRun_keeps_invariants h.inv h.trellisInv hstart
  have hN : s.startDecode.nSteps.toNat = s.inLen.toNat / s.gNum := startDecode_nSteps_toNat s
  obtain ⟨u, hfwd, hu, hfull⟩ := engineRun_forward (n := s.inLen.toNat / s.gNum) hinv htr (x := x) h.holds
    (forwardProgress_start x hn) (hN.trans (Nat.zero_add _).symm)
  obtain ⟨hinvu, htru⟩ := engineRun_keeps_invariants hinv htr hfwd
  have hsel : u.phase = .decSel := by rw [hu.phase, if_pos hfull]
  have hstep := engineStep_decSel hsel
  obtain ⟨v, htb, hv⟩ := engineRun_traceback (engineStep_keeps_coreInv hinvu hstep)
    (engineStep_keeps_trellisInv hinvu htru hstep) rfl ((congrArg BitVec.toNat hu.frame.nSteps).trans hN)
  refine ⟨u, v, ⟨hu, hinvu, htru, hsel, hfull, hv⟩, ?_⟩
  have hcount : 2 * (s.inLen.toNat / s.gNum) * s.stateCount = s.inLen.toNat / s.gNum * (2 * s.stateCount) := by ring
  have htoSel : engineRun (2 + s.inLen.toNat / s.gNum * (2 * s.stateCount)) s = .next u :=
    (engineRun_add hstart).trans hfwd
  rw [hcount]
  exact (engineRun_add ((engineRun_add htoSel).trans (engineRun_succ 0 hstep))).trans htb

namespace DecodeRun

theorem nSteps (h : DecodeRun s x u v) : u.nSteps.toNat = s.inLen.toNat / s.gNum := by
  rw [h.forward.frame.nSteps]
  exact startDecode_nSteps_toNat s

theorem outMem (h : DecodeRun s x u v) : u.outMem = s.outMem := by
  simpa using h.forward.frame.outMem

/-- R72: what CHECK, DEC_INIT and the forward pass leave as it was. -/
theorem forwardFrame (h : DecodeRun s x u v) : SameStaged s u ∧ SameActive s u ∧ SameHost s u ∧ SameInput s u := by
  simpa [SameStaged, SameActive, SameHost, SameInput] using h.forward.frame.same

/-- R72: what a whole DECODE leaves as it was. -/
theorem frame (h : DecodeRun s x u v) : SameStaged s v ∧ SameActive s v ∧ SameHost s v ∧ SameInput s v := by
  rw [h.traced.frame]
  exact h.forwardFrame

/-- R183: the bits that a DECODE leaves in OUT_MEM. -/
theorem holds_decodedBit (h : DecodeRun s x u v) :
    Holds v.outMem (decodedBit u.bpAt u.nSteps.toNat u.terminalState) (s.inLen.toNat / s.gNum) := by
  rw [← h.nSteps]
  exact h.traced.decoded

/-- R186: a DECODE completes with code NONE and OUT_LEN = N. -/
theorem completes (h : DecodeRun s x u v) :
    v.phase = .idle ∧ v.busy = false ∧ v.err = .none ∧ v.outLen = u.nSteps := by
  rw [h.traced.frame]
  exact ⟨rfl, rfl, rfl, rfl⟩

end DecodeRun

/-- Settles O39: the run of `engineRun_decode`, whose decoded bits are those of traceback. -/
theorem decodeRuns : Obligations.DecodeRuns := by
  intro s x hinv hp ho hc hdiv hlen hsteps hpos hx
  obtain ⟨u, v, h, hrun⟩ := DecodeReady.engineRun_decode ⟨hinv, hp, ho, hc, hdiv, ⟨hlen, hsteps⟩, hpos, hx⟩
  obtain ⟨hidle, hbusy, herr, hout⟩ := h.completes
  refine ⟨v, _, hrun, hidle, hbusy, herr, by rw [hout]; exact h.nSteps, h.holds_decodedBit, fun a ha => ?_, h.frame⟩
  rw [h.traced.kept a (by rw [h.nSteps]; exact ha), h.outMem]

end Sys2Proof.Proofs
end

section
/-! PROOFS. Maximum likelihood (O40): a path's cost is its Hamming distance, every path's end costs at most the path,
the decoded path costs what its end does, and the terminal state is a cheapest end. -/

namespace Sys2Proof.Proofs

open Sys2Proof.Machine Sys2Proof.Safety Sys2Proof.Laws

variable {s t u v : State} {x y z : Nat → Bit}

/-! ### Paths through the trellis (R133, R156) -/

/-- The encoder's state after the first `n` bits of `z` (R133). -/
def pathState (s : State) (z : Nat → Bit) (n : Nat) : Nat :=
  match n with
  | 0 => 0
  | n + 1 => s.nextState (shiftIn (pathState s z n) (z n))

/-- The cost of the path of the first `n` bits of `z` against the input `x` (R156). -/
def pathCost (s : State) (x z : Nat → Bit) (n : Nat) : Nat :=
  match n with
  | 0 => 0
  | n + 1 => pathCost s x z n + branchCost s x (shiftIn (pathState s z n) (z n)) (n * s.gNum)

theorem pathState_lt (s : State) (z : Nat → Bit) (n : Nat) : pathState s z n < s.stateCount := by
  cases n with
  | zero => exact stateCount_pos s
  | succ n => exact nextState_lt s _

/-- A path depends on its own bits only. -/
theorem path_congr {n : Nat} (h : ∀ i, i < n → y i = z i) :
    pathState s y n = pathState s z n ∧ pathCost s x y n = pathCost s x z n := by
  induction n with
  | zero => exact ⟨rfl, rfl⟩
  | succ n ih =>
    obtain ⟨hstate, hcost⟩ := ih fun i hi => h i (Nat.lt_succ_of_lt hi)
    simp only [pathState, pathCost, hstate, hcost, h n (Nat.lt_succ_self n), and_self]

/-! ### A path's cost is a Hamming distance (R140, R156) -/

theorem hamming_add (e x : Nat → Bit) (m n : Nat) :
    hamming e x (m + n) = hamming e x m + hamming (fun j => e (m + j)) (fun j => x (m + j)) n := by
  induction n with
  | zero => rfl
  | succ n ih => rw [← Nat.add_assoc, hamming, ih, hamming, Nat.add_assoc]

theorem hamming_congr {e e' x : Nat → Bit} {n : Nat} (h : ∀ j, j < n → e j = e' j) :
    hamming e x n = hamming e' x n := by
  induction n with
  | zero => rfl
  | succ n ih => rw [hamming, hamming, ih fun j hj => h j (Nat.lt_succ_of_lt hj), h n (Nat.lt_succ_self n)]

/-- R133: the path's state is the history of its last K-1 bits. -/
theorem holdsHistory_pathState (s : State) (z : Nat → Bit) (n : Nat) :
    HoldsHistory (pathState s z n) z n (s.kNum - 1) := by
  induction n with
  | zero => exact holdsHistory_zero z _
  | succ n ih => exact holdsHistory_nextState s (holdsHistory_shiftIn ih)

/-- R135, R140: output `j` of time step `n`. -/
theorem encodedAt_group (s : State) (z : Nat → Bit) (n : Nat) {j : Nat} (hj : j < s.gNum) :
    encodedAt s z (n * s.gNum + j) = tapParity (s.genNum j) (shiftIn (pathState s z n) (z n)) s.kNum := by
  have hhist := holdsHistory_shiftIn (holdsHistory_pathState s z n)
  have hdiv : (n * s.gNum + j) / s.gNum = n := by
    rw [Nat.add_comm, Nat.add_mul_div_right _ _ (Nat.zero_lt_of_lt hj), Nat.div_eq_of_lt hj, Nat.zero_add]
  rw [tapParity_of_history _ fun p hp => hhist p (by omega), encodedAt, Nat.mul_add_mod_of_lt hj, hdiv]

theorem pathCost_eq_hamming (s : State) (x z : Nat → Bit) (n : Nat) :
    pathCost s x z n = hamming (encodedAt s z) x (n * s.gNum) := by
  induction n with
  | zero => rw [Nat.zero_mul]; rfl
  | succ n ih =>
    rw [Nat.succ_mul, hamming_add, pathCost, ih, branchCost]
    exact congrArg _ (hamming_congr fun j hj => (encodedAt_group s z n hj).symm)

theorem encodedAt_of_sameActive (h : SameActive s u) (z : Nat → Bit) : encodedAt u z = encodedAt s z := by
  obtain ⟨hk, hg, -, hgen, -⟩ := h
  funext a
  simp only [encodedAt, State.kNum, State.gNum, State.genNum, hk, hg, hgen]

/-! ### Every path's end costs at most the path (R158) -/

/-- R158: a candidate's cell is reachable and costs at most the candidate. -/
theorem CellFilled.le_candidateCost {T n ns cost c : Nat} {e : BpEntry} (h : CellFilled s x T n ns cost e)
    (hc : c < n) (hl : Leads s T ns c) : cost ≤ candidateCost s x T c := by
  obtain ⟨hnone, -⟩ | ⟨d, hbest, rfl, -⟩ := h
  · exact absurd hl (hnone c hc)
  · exact hbest.least c hc hl

theorem pathCost_le (s : State) (x z : Nat → Bit) (n : Nat) : pathCost s x z n ≤ n * s.gNum := by
  rw [pathCost_eq_hamming]
  exact hamming_le _ _ _

theorem shiftIn_div_mod (c : Nat) : shiftIn (c / 2) (BitVec.ofNat 1 (c % 2)) = c := by
  rw [shiftIn_eq, BitVec.toNat_ofNat]
  omega

namespace DecodeRun

/-- R161, R162: at the end of the forward pass column 0 holds cost 0 at state 0, and nothing else. -/
theorem costAt_zero (h : DecodeRun s x u v) : Reachable u 0 0 ∧ u.costAt 0 0 = 0 ∧
    ∀ st, st < u.stateCount → Reachable u 0 st → st = 0 := by
  have hsound := h.trellis.sound (.inr (.inl h.phase)) 0
  have hr : Reachable u 0 0 :=
    (h.trellis.selected h.phase 0 0 (Nat.zero_le _) (stateCount_pos u)).2 (Nat.two_pow_pos _)
  obtain ⟨hle, -⟩ := hsound 0 (Nat.zero_le _) (stateCount_pos u) hr
  refine ⟨hr, by simpa using hle, fun st hst hrst => ?_⟩
  obtain ⟨-, hzero, -⟩ := hsound st (Nat.zero_le _) hst hrst
  exact hzero rfl

/-- R162, R165: every column is filled by all its candidates. -/
theorem column (h : DecodeRun s x u v) {τ ns : Nat} (hτ : τ < u.nSteps.toNat) (hns : ns < u.stateCount) :
    CellFilled u x τ (2 * u.stateCount) ns (u.costAt (τ + 1) ns) (u.bpAt (τ + 1) ns) :=
  h.forward.columns τ ns (h.full ▸ hτ) hns

/-- R158: the end of the path of `z` costs at most that path. -/
theorem costAt_le_pathCost (h : DecodeRun s x u v) (z : Nat → Bit) {τ : Nat} (hτ : τ ≤ u.nSteps.toNat) :
    u.costAt τ (pathState u z τ) ≤ pathCost u x z τ := by
  induction τ with
  | zero => exact Nat.le_of_eq h.costAt_zero.2.1
  | succ τ ih =>
    have hle := ih (Nat.le_of_succ_le hτ)
    have hr : Reachable u τ (pathState u z τ) := by
      have hpath := pathCost_le u x z τ
      have hcol : τ * u.gNum ≤ u.nSteps.toNat * u.gNum := Nat.mul_le_mul_right _ (Nat.le_of_succ_le hτ)
      have hinf := pathCost_lt_inf h.inv (by rw [h.phase]; rfl)
      exact reachable_of_lt_inf (by omega)
    have hfilled := h.column hτ (nextState_lt u (shiftIn (pathState u z τ) (z τ)))
    calc u.costAt (τ + 1) (pathState u z (τ + 1))
        ≤ candidateCost u x τ (shiftIn (pathState u z τ) (z τ)) :=
          hfilled.le_candidateCost (shiftIn_lt _ (pathState_lt u z τ)) ⟨by rwa [shiftIn_div_two], rfl⟩
      _ = u.costAt τ (pathState u z τ) + branchCost u x (shiftIn (pathState u z τ) (z τ)) (τ * u.gNum) := by
          rw [candidateCost, shiftIn_div_two]
      _ ≤ pathCost u x z (τ + 1) := Nat.add_le_add_right hle _

/-- R163, R183: the path that traceback decodes from a reachable state ends there, and costs what the cell holds. -/
theorem decodedPath (h : DecodeRun s x u v) {τ st : Nat} (hτ : τ ≤ u.nSteps.toNat) (hst : st < u.stateCount)
    (hr : Reachable u τ st) :
    pathState u (decodedBit u.bpAt τ st) τ = st ∧ pathCost u x (decodedBit u.bpAt τ st) τ = u.costAt τ st := by
  induction τ generalizing st with
  | zero =>
    obtain ⟨-, hcost, hzero⟩ := h.costAt_zero
    obtain rfl := hzero st hst hr
    exact ⟨rfl, hcost.symm⟩
  | succ τ ih =>
    obtain ⟨-, hinf, -⟩ | ⟨c, hbest, hcost, he⟩ := h.column hτ hst
    · exact absurd hinf hr
    · obtain ⟨hlt, ⟨hrc, hnext⟩, -⟩ := hbest
      obtain ⟨hstate, hpath⟩ := ih (Nat.le_of_succ_le hτ) (by omega : c / 2 < u.stateCount) hrc
      have hlast : decodedBit u.bpAt (τ + 1) st τ = BitVec.ofNat 1 (c % 2) := by
        rw [decodedBit, if_pos rfl, he, candidateEntry]
      have hsame : ∀ i, i < τ → decodedBit u.bpAt (τ + 1) st i = decodedBit u.bpAt τ (c / 2) i := fun i hi => by
        rw [decodedBit, if_neg (Nat.ne_of_lt hi), he, candidateEntry]
      obtain ⟨hstate', hpath'⟩ := path_congr (s := u) (x := x) hsame
      rw [pathState, pathCost, hstate', hpath', hstate, hpath, hlast, shiftIn_div_mod]
      exact ⟨hnext, hcost.symm⟩

/-- R181: under MIN_COST no path is cheaper than the decoded one. -/
theorem pathCost_decoded_le (h : DecodeRun s x u v) (hmin : u.zeroTerm = false) (z : Nat → Bit) :
    pathCost u x (decodedBit u.bpAt u.nSteps.toNat u.terminalState) u.nSteps.toNat ≤
      pathCost u x z u.nSteps.toNat := by
  have hr := reachable_terminalState h.inv h.trellis h.phase
  have hterm : u.terminalState = argMin (u.costAt u.nSteps.toNat) (u.stateCount - 1) := by
    rw [State.terminalState, hmin]
    exact if_neg (by decide)
  obtain ⟨-, hleast, -⟩ := argMin_spec (u.costAt u.nSteps.toNat) (u.stateCount - 1)
  rw [← hterm] at hleast
  obtain ⟨-, hcost⟩ := h.decodedPath (Nat.le_refl _) (terminalState_lt u) hr
  calc _ = u.costAt u.nSteps.toNat u.terminalState := hcost
    _ ≤ u.costAt u.nSteps.toNat (pathState u z u.nSteps.toNat) :=
      hleast _ (Nat.le_sub_one_of_lt (pathState_lt u z _))
    _ ≤ pathCost u x z u.nSteps.toNat := h.costAt_le_pathCost z (Nat.le_refl _)

/-- R27: the code is the one active at the command's start. -/
theorem encodedAt_eq (h : DecodeRun s x u v) (z : Nat → Bit) : encodedAt u z = encodedAt s z := by
  obtain ⟨-, hactive, -⟩ := h.forwardFrame
  exact encodedAt_of_sameActive hactive z

/-- R31: so is the input's length. -/
theorem inLen_eq (h : DecodeRun s x u v) : u.nSteps.toNat * u.gNum = s.inLen.toNat := by
  obtain ⟨⟨-, -, -, -, hlen⟩, -⟩ := h.forwardFrame
  obtain ⟨-, -, hsize⟩ := h.inv.decodingSize (by rw [h.phase]; rfl)
  rw [← hsize, hlen]

/-- R27, R30: so is the termination policy. -/
theorem zeroTerm_eq (h : DecodeRun s x u v) : u.zeroTerm = s.zeroTerm := by
  obtain ⟨-, ⟨-, -, hctrl, -⟩, -⟩ := h.forwardFrame
  rw [State.zeroTerm, State.zeroTerm, hctrl]

end DecodeRun

/-! ### The end of a run (R219) -/

theorem engineRun_of_idle (n : Nat) (hp : s.phase = .idle) : engineRun n s = .next s := by
  have hstep : engineStep s = .next s := by rw [engineStep, hp]
  induction n with
  | zero => rfl
  | succ n ih => rw [engineRun_succ n hstep, ih]

/-- R219: two runs of the ENGINE that end in IDLE end alike. -/
theorem engineRun_end_unique {m n : Nat} (hm : engineRun m s = .next t) (ht : t.phase = .idle)
    (hn : engineRun n s = .next u) (hu : u.phase = .idle) : t = u := by
  have hlong := (engineRun_add (n := n) hm).trans (engineRun_of_idle n ht)
  rw [Nat.add_comm, engineRun_add hn, engineRun_of_idle m hu] at hlong
  exact (Host.Outcome.next.inj hlong).symm

/-- Settles O40: the decoded path is a cheapest one, and a path's cost is its distance from the input. -/
theorem decodeIsMaximumLikelihood : Obligations.DecodeIsMaximumLikelihood := by
  intro s t x y n hinv hp ho hc hctrl hdiv hlen hsteps hpos hx hrun ht hy z
  have hready : DecodeReady s x := ⟨hinv, hp, ho, hc, hdiv, ⟨hlen, hsteps⟩, hpos, hx⟩
  obtain ⟨u, v, h, hrunv⟩ := hready.engineRun_decode
  obtain ⟨hidle, -⟩ := h.completes
  obtain rfl := engineRun_end_unique hrun ht hrunv hidle
  have hbits : ∀ i, i < u.nSteps.toNat → decodedBit u.bpAt u.nSteps.toNat u.terminalState i = y i := fun i hi => by
    rw [h.nSteps] at hi
    exact Option.some.inj ((h.holds_decodedBit i hi).symm.trans (hy i hi))
  have hbest := h.pathCost_decoded_le (h.zeroTerm_eq.trans hctrl) z
  rwa [(path_congr hbits).2, pathCost_eq_hamming, pathCost_eq_hamming, h.encodedAt_eq, h.encodedAt_eq,
    h.inLen_eq] at hbest

end Sys2Proof.Proofs
end

section
/-! PROOFS. Terminal selection and traceback step by step (O33, O34, O35, O37, O38): what DEC_SEL and DEC_TB answer,
and what the trellis invariant says of the state they hold. -/

namespace Sys2Proof.Proofs

open Sys2Proof.Machine Sys2Proof.Safety Sys2Proof.Laws

variable {s : State}

/-! ### DEC_SEL (R180 to R182) -/

theorem execDecode_of_decSel (hp : s.phase = .decSel) :
    execDecode s = .next { s with fst := s.terminalState, t := s.nSteps, phase := .decTb } :=
  (engineStep_of_decoding (by rw [hp]; rfl)).symm.trans (engineStep_decSel hp)

theorem terminalState_of_zeroState (hctrl : s.ctrl.getLsbD 0 = true) : s.terminalState = 0 := if_pos hctrl

theorem terminalState_of_minCost (hctrl : s.ctrl.getLsbD 0 = false) :
    s.terminalState = argMin (s.costAt s.nSteps.toNat) (s.stateCount - 1) :=
  if_neg fun hzero => absurd (hctrl.symm.trans hzero) (by decide)

/-- Settles O33: the terminal state is the minimum scan's, reachable as under every policy. -/
theorem minCostTerminal : Obligations.MinCostTerminal := by
  intro s hp hctrl
  obtain ⟨-, hleast, hfirst⟩ := argMin_spec (s.costAt s.nSteps.toNat) (s.stateCount - 1)
  rw [← terminalState_of_minCost hctrl] at hleast hfirst
  exact ⟨_, execDecode_of_decSel hp, terminalState_lt s, fun st hst => hleast st (Nat.le_sub_one_of_lt hst), hfirst,
    fun hinv h => reachable_terminalState hinv h hp, rfl⟩

/-- Settles O34: the terminal state is 0, reachable as under every policy. -/
theorem zeroStateTerminal : Obligations.ZeroStateTerminal := by
  intro s hp hctrl
  rw [← terminalState_of_zeroState hctrl]
  exact ⟨execDecode_of_decSel hp, fun hinv h => reachable_terminalState hinv h hp⟩

/-! ### DEC_TB (R183 to R186) -/

/-- Settles O35: the step is `traceBit` of the held state's entry. -/
theorem tracebackStep : Obligations.TracebackStep := by
  intro s hp ht hvalid
  refine ⟨_, execDecode_of_decTb hp ht hvalid, ?_, fun a ha => ?_, ?_, rfl⟩
  · rw [traceBit_outMem, Memory_read_write_same]
  · rw [traceBit_outMem, Memory_read_write_ne _ _ ha]
  · rw [traceBit_t, (dec_toNat ht).1]

theorem execDecode_of_invalidEntry (hp : s.phase = .decTb) (ht : s.t ≠ 0)
    (hinvalid : (s.bpAt s.t.toNat s.fst).valid = false) : execDecode s = .fault .invalidBackPointer := by
  rw [execDecode, hp]
  exact (if_neg ht).trans (if_neg (by simp [hinvalid]))

/-- Settles O37: DEC_TB tests VALID before it uses the entry. -/
theorem invalidBackPointerFaults : Obligations.InvalidBackPointerFaults := fun _ => execDecode_of_invalidEntry

/-- R163: at time 0 traceback holds state 0, the only reachable one. -/
theorem fst_eq_zero_of_traced (h : TrellisInv s) (hp : s.phase = .decTb) (ht : s.t.toNat = 0) : s.fst = 0 := by
  obtain ⟨hfst, hr⟩ := h.held hp
  obtain ⟨-, hzero, -⟩ := h.sound (.inr (.inr hp)) _ _ (ht.trans_le (Nat.zero_le _)) hfst hr
  exact hzero ht

/-- Settles O38: the step is `finishDecode`, and the state held at time 0 is reachable. -/
theorem decodeCompletes : Obligations.DecodeCompletes := fun _ hp ht =>
  ⟨execDecode_of_traced hp ht, fun _ h => fst_eq_zero_of_traced h hp (congrArg BitVec.toNat ht)⟩

end Sys2Proof.Proofs
end

section
/-! PROOFS. The round trip (O41): by maximum likelihood the decoded bits encode to the input itself, and a generator
with bit 0 set gives them back one by one. -/

namespace Sys2Proof.Proofs

open Sys2Proof.Machine Sys2Proof.Safety Sys2Proof.Laws

variable {s : State} {e x y z : Nat → Bit}

theorem hamming_self (x : Nat → Bit) (n : Nat) : hamming x x n = 0 := by
  induction n with
  | zero => rfl
  | succ n ih => simp [hamming, ih]

theorem eq_of_hamming_eq_zero {n : Nat} (h : hamming e x n = 0) {i : Nat} (hi : i < n) : e i = x i := by
  induction n with
  | zero => exact absurd hi (Nat.not_lt_zero i)
  | succ n ih =>
    obtain ⟨hbelow, hlast⟩ : hamming e x n = 0 ∧ e n = x n := by simpa [hamming] using h
    obtain hlt | rfl := Nat.lt_succ_iff_lt_or_eq.1 hi
    · exact ih hbelow hlt
    · exact hlast

/-- R188: through a generator with bit 0 set, the bit shifted in last can be told from the output, the bits before it
being known. -/
theorem eq_of_convBit_eq {g i n : Nat} (hg : g.testBit 0 = true) (hbelow : ∀ m, m < i → y m = z m)
    (h : convBit g y i (n + 1) = convBit g z i (n + 1)) : y i = z i := by
  induction n with
  | zero => simpa [convBit, hg] using h
  | succ n ih =>
    have hterm : (if g.testBit (n + 1) && decide (n + 1 ≤ i) then y (i - (n + 1)) else 0) =
        if g.testBit (n + 1) && decide (n + 1 ≤ i) then z (i - (n + 1)) else 0 := by
      split
      · rename_i htap
        obtain ⟨-, hle⟩ : g.testBit (n + 1) = true ∧ n + 1 ≤ i := by simpa using htap
        exact hbelow _ (by omega)
      · rfl
    unfold convBit at h
    rw [hterm] at h
    exact ih ((BitVec.xor_left_inj _).1 h)

/-- R12, R135, R140: output `j` of time step `n` as a convolution. -/
theorem encodedAt_eq_convBit (s : State) (z : Nat → Bit) (n : Nat) {j : Nat} (hj : j < s.gNum) :
    encodedAt s z (n * s.gNum + j) = convBit (s.genNum j) z n s.kNum := by
  have hhist := holdsHistory_shiftIn (holdsHistory_pathState s z n)
  rw [encodedAt_group s z n hj, tapParity_of_history _ fun p hp => hhist p (by omega)]

/-- R188: where some generator has bit 0 set, two sequences with the same encoding are the same. -/
theorem eq_of_encodedAt_eq {j n : Nat} (hj : j < s.gNum) (hg : (s.genNum j).testBit 0 = true) (hk : 1 ≤ s.kNum)
    (h : ∀ a, a < n * s.gNum → encodedAt s y a = encodedAt s z a) {i : Nat} (hi : i < n) : y i = z i := by
  induction i using Nat.strong_induction_on with
  | _ i ih =>
    have hlt : i * s.gNum + j < n * s.gNum :=
      calc i * s.gNum + j < (i + 1) * s.gNum := by rw [Nat.succ_mul]; omega
        _ ≤ n * s.gNum := Nat.mul_le_mul_right _ hi
    have hbit := h _ hlt
    rw [encodedAt_eq_convBit s y i hj, encodedAt_eq_convBit s z i hj, ← Nat.sub_add_cancel hk] at hbit
    exact eq_of_convBit_eq hg (fun m hm => ih m hm (Nat.lt_trans hm hi)) hbit

/-- Settles O41: the input being an encoding, no decoded sequence but one that encodes to it is as near. -/
theorem roundTrip : Obligations.RoundTrip := by
  intro s t z n hinv hp ho hc hctrl hgen hdiv hlen hsteps hpos hx hrun ht
  obtain ⟨v, y, hrunv, hidle, -, -, -, hy, -⟩ := decodeRuns s _ hinv hp ho hc hdiv hlen hsteps hpos hx
  obtain rfl := engineRun_end_unique hrun ht hrunv hidle
  have hbest := decodeIsMaximumLikelihood s t _ y n hinv hp ho hc hctrl hdiv hlen hsteps hpos hx hrun ht hy z
  rw [hamming_self, Nat.le_zero] at hbest
  obtain ⟨j, hj, hbit⟩ := hgen
  obtain ⟨⟨hk, -⟩, -⟩ := hinv.configuredRange hc
  have hsame : ∀ a, a < s.inLen.toNat / s.g.toNat * s.gNum → encodedAt s y a = encodedAt s z a := fun a ha =>
    eq_of_hamming_eq_zero hbest (Nat.lt_of_lt_of_le ha (Nat.div_mul_le_self _ _))
  intro i hi
  rw [hy i hi, eq_of_encodedAt_eq hj hbit hk hsame hi]

end Sys2Proof.Proofs
end

section
/-! PROOFS. The causes of a fault (O59): every fault of a host access and of the ENGINE, and what the invariants make of
each. -/

namespace Sys2Proof.Proofs

open Sys2Proof.Machine Sys2Proof.Safety Sys2Proof.Laws

variable {s : State} {f : Fault}

/-! ### The HOST's faults (R63, R67, R235) -/

/-- Address `a` selects an element of IN_MEM or OUT_MEM that holds no value (R36). -/
def SelectsNoValue (s : State) (a : Word) : Prop :=
  ∃ i, (decodeAddr s.params a = some (.inMem i) ∧ Memory.read s.inMem i = none) ∨
    (decodeAddr s.params a = some (.outMem i) ∧ Memory.read s.outMem i = none)

theorem elementWord_error {a : Word} {x : Option Bit} (h : elementWord a x = .error f) :
    x = none ∧ f = .hostReadNoValue a := by
  cases x with
  | none => cases h; exact ⟨rfl, rfl⟩
  | some x => cases h

/-- Why an address can have no word to read (R63, R67). -/
theorem readWord_error {a : Word} (h : readWord a s = .error f) :
    (f = .unmappedAccess a ∧ decodeAddr s.params a = none) ∨ (f = .hostReadNoValue a ∧ SelectsNoValue s a) := by
  cases ha : decodeAddr s.params a with
  | none =>
    rw [readWord, ha] at h
    cases h
    exact .inl ⟨rfl, rfl⟩
  | some tgt =>
    cases tgt with
    | inMem i =>
      obtain ⟨hnone, rfl⟩ := elementWord_error ((readWord_inMem ha).symm.trans h)
      exact .inr ⟨rfl, i, .inl ⟨ha, hnone⟩⟩
    | outMem i =>
      obtain ⟨hnone, rfl⟩ := elementWord_error ((readWord_outMem ha).symm.trans h)
      exact .inr ⟨rfl, i, .inr ⟨ha, hnone⟩⟩
    | _ =>
      rw [readWord, ha] at h
      cases h

/-- STATUS is mapped and always has a word (R62, R63). -/
theorem readWord_of_statusRead {a : Word} (h : s.isStatusRead a = true) : readWord a s = .ok s.statusWord := by
  rw [readWord, of_decide_eq_true h]

/-- Every fault of a host read. -/
theorem hostRead_fault {a : Word} (h : hostRead a s = .fault f) :
    (f = .busyHazard ∧ s.busy = true ∧ s.isStatusRead a = false) ∨ (s.busy = false ∧ readWord a s = .error f) := by
  unfold hostRead at h
  split at h
  · rename_i hhaz
    cases h
    exact .inl ⟨rfl, by simpa using hhaz⟩
  · rename_i hfree
    cases hr : readWord a s with
    | ok v => rw [hr] at h; cases h
    | error g =>
      rw [hr] at h
      cases h
      have hs : s.isStatusRead a = false := Bool.eq_false_iff.2 fun hs => by
        cases hr.symm.trans (readWord_of_statusRead hs)
      exact .inr ⟨by simpa [hs] using hfree, rfl⟩

/-- Every fault of a host write. -/
theorem hostWrite_fault {a w : Word} (h : hostWrite a w s = .fault f) :
    (f = .busyHazard ∧ s.busy = true) ∨
    (f = .unmappedAccess a ∧ s.busy = false ∧ decodeAddr s.params a = none) := by
  unfold hostWrite at h
  split at h
  · cases h
    exact .inl ⟨rfl, ‹_›⟩
  · rename_i hb
    split at h
    · cases h
      exact .inr ⟨rfl, Bool.eq_false_iff.2 hb, ‹_›⟩
    · cases h

/-! ### The ENGINE's faults (R66, R185) -/

/-- The ENGINE faults only in a command's meaning, in CHECK or in a phase of that command. -/
theorem engineStep_fault (h : engineStep s = .fault f) :
    ∃ i, (s.phase = .check ∨ phaseCommand s.phase = some i) ∧ exec i s = .fault f := by
  cases hp : s.phase with
  | idle =>
    rw [engineStep, hp] at h
    cases h
  | check =>
    cases hd : decodeWord s.opc with
    | ok i => exact ⟨i, .inl rfl, (engineStep_of_check hp hd).symm.trans h⟩
    | error e => simp [engineStep, hp, engineCheck, hd, raiseError] at h
  | _ => exact ⟨_, .inr rfl, (engineStep_of_phase (by rw [hp]; rfl)).symm.trans h⟩

/-- R66: the input group of a time step lies below IN_LEN. -/
theorem group_lt_inLen {j : Nat} (hinv : CoreInv s) (hp : s.phase = .decAcs) (hj : j < s.gNum) :
    s.t.toNat * s.gNum + j < s.inLen.toNat := by
  obtain ⟨hT, -⟩ := hinv.forward hp
  obtain ⟨-, -, hlen⟩ := hinv.decodingSize (by rw [hp]; rfl)
  calc s.t.toNat * s.gNum + j < (s.t.toNat + 1) * s.gNum := by rw [Nat.succ_mul]; omega
    _ ≤ s.nSteps.toNat * s.gNum := Nat.mul_le_mul_right _ hT
    _ = s.inLen.toNat := hlen.symm

/-- R185, R220 (b): under the invariants the ENGINE faults only at an input element that holds no value. -/
theorem engineStep_fault_of_inv (hinv : CoreInv s) (htr : TrellisInv s) (h : engineStep s = .fault f) :
    ∃ i, f = .engineReadNoValue i ∧ i < s.inLen.toNat ∧ Memory.read s.inMem i = none ∧
      ((s.phase = .encStep ∧ i = s.iIdx.toNat) ∨
        (s.phase = .decAcs ∧ Reachable s s.t.toNat s.si ∧ s.t.toNat * s.gNum ≤ i ∧
          i < s.t.toNat * s.gNum + s.gNum)) := by
  obtain ⟨i, hphase, he⟩ := engineStep_fault h
  obtain ⟨hp, hne, hnone, rfl⟩ | ⟨hp, hr, j, hj, hnone, rfl⟩ | ⟨hp, hne, hinvalid, -⟩ | ⟨hwork, hother, -⟩ :=
    exec_fault he
  · obtain ⟨-, -, hle, -⟩ := hinv.encoding hp
    exact ⟨_, rfl, (inc_toNat hle hne).2, hnone, .inl ⟨hp, rfl⟩⟩
  · exact ⟨_, rfl, group_lt_inLen hinv hp hj, hnone,
      .inr ⟨hp, hr, Nat.le_add_right _ _, Nat.add_lt_add_left hj _⟩⟩
  · obtain ⟨hvalid, -⟩ := held_entry hinv htr hp hne
    exact absurd (hvalid.symm.trans hinvalid) (by decide)
  · obtain hcheck | hown := hphase
    · exact absurd (by rw [hcheck]; rfl) hwork
    · exact absurd hown hother

/-! ### Every fault of a step (R220) -/

/-- Every fault of the model is of the agent whose turn it is (R14). -/
theorem step_fault_cases (h : step s = .fault f) :
    (EngineTurn s ∧ engineStep (takeTurn s) = .fault f) ∨
    (∃ op, s.schedule.head? = some (.host op) ∧ hostStep op (takeTurn s) = .fault f) := by
  cases hs : s.schedule with
  | nil =>
    have hturn : EngineTurn s := .inl hs
    exact .inl ⟨hturn, (step_of_engineTurn hturn).symm.trans h⟩
  | cons turn rest =>
    cases turn with
    | engine =>
      have hturn : EngineTurn s := .inr (by rw [hs]; rfl)
      exact .inl ⟨hturn, (step_of_engineTurn hturn).symm.trans h⟩
    | host op => exact .inr ⟨op, rfl, (step_of_hostTurn (by rw [hs]; rfl)).symm.trans h⟩

/-- Settles O59: the ENGINE's faults under the invariants are R220 (b); a read's and a write's are (a), (c) and (d),
BUSY = 1 lying in R234's window. -/
theorem faultCauses : Obligations.FaultCauses := by
  intro s f hinv htr hstep
  obtain ⟨hturn, he⟩ | ⟨op, hturn, he⟩ := step_fault_cases hstep
  · have htr' : TrellisInv (takeTurn s) := { htr with }
    obtain ⟨i, hf, hi, hnone, hphase⟩ := engineStep_fault_of_inv (coreInv_takeTurn hinv) htr' he
    exact .inr (.inl ⟨i, hf, hturn, hi, hnone, hphase⟩)
  · cases op with
    | read a =>
      obtain ⟨hf, hb, hs⟩ | ⟨hb, hr⟩ := hostRead_fault he
      · refine .inr (.inr (.inr ⟨hf, hb, fun hfree => ?_⟩))
        have hstatus := (hazardFree_iff_of_read hturn).1 hfree (hinv.busyDue hb)
        exact absurd (hstatus.symm.trans hs) (by decide)
      · obtain ⟨hf, ha⟩ | ⟨hf, hsel⟩ := readWord_error hr
        · exact .inr (.inr (.inl ⟨a, hf, ha, hb, .inl hturn⟩))
        · exact .inl ⟨a, hf, hturn, hb, hsel⟩
    | write a w =>
      obtain ⟨hf, hb⟩ | ⟨hf, hb, ha⟩ := hostWrite_fault he
      · refine .inr (.inr (.inr ⟨hf, hb, fun hfree => ?_⟩))
        have hdue := (hazardFree_iff_of_write hturn).1 hfree
        exact absurd ((hinv.busyDue hb).symm.trans hdue) (by decide)
      · exact .inr (.inr (.inl ⟨a, hf, ha, hb, .inr ⟨w, hturn⟩⟩))
    | reset => cases he

end Sys2Proof.Proofs
end

section
/-! PROOFS. Errors and the busy hazard (O6, O43, O47): an illegal word ends in CHECK, the end of a command reports an
error exactly in CHECK, and what a host access answers and records in the busy window. -/

namespace Sys2Proof.Proofs

open Sys2Proof.Machine Sys2Proof.Safety Sys2Proof.Laws

variable {s t : State}

/-! ### The end of a command (R207, R210) -/

/-- How a command that ends by the move from `s` to `t` reports (R207): in CHECK it only raises an error, in a working
phase it raises none. -/
def EndReport (s t : State) : Prop :=
  (s.phase = .check ∧ ∃ c, c ≠ .none ∧ t = s.endCommand c) ∨ (s.phase ≠ .check ∧ t.err = .none)

theorem EndReport.of_check {c : ErrCode} (hp : s.phase = .check) (hc : c ≠ .none) : EndReport s (s.endCommand c) :=
  .inl ⟨hp, c, hc, rfl⟩

theorem EndReport.of_working {p : Phase} (hp : s.phase = p) (h : p ≠ .check) (he : t.err = .none) : EndReport s t :=
  .inr ⟨hp ▸ h, he⟩

/-- R157, R165: after a candidate the forward pass goes on or hands over to DEC_SEL; it never ends the command. -/
theorem advance_phase_ne_idle (s : State) : s.advance.phase ≠ .idle := by
  obtain ⟨-, -, -, hphase⟩ := advance_order s
  rw [hphase]
  split <;> decide

theorem endReport_execConfigure (hp : s.phase ≠ .idle) (he : execConfigure s = .next t) (ht : t.phase = .idle) :
    EndReport s t := by
  obtain ⟨hidle, -⟩ | ⟨hc, -, rfl⟩ | ⟨hc, -, -, rfl⟩ | ⟨-, -, -, rfl⟩ | ⟨hw, rfl⟩ := execConfigure_cases he
  · exact absurd hidle hp
  · exact .of_check hc (by decide)
  · exact .of_check hc (by decide)
  · cases ht
  · exact .of_working hw (by decide) rfl

theorem endReport_execEncode (hp : s.phase ≠ .idle) (he : execEncode s = .next t) (ht : t.phase = .idle) :
    EndReport s t := by
  obtain ⟨hidle, -⟩ | ⟨hc, -, rfl⟩ | ⟨hc, -, -, rfl⟩ | ⟨-, -, -, rfl⟩ | ⟨hw, -, rfl⟩ | ⟨-, -, x, -, rfl⟩ :=
    execEncode_cases he
  · exact absurd hidle hp
  · exact .of_check hc (by decide)
  · exact .of_check hc (by decide)
  · cases ht
  · exact .of_working hw (by decide) rfl
  · exact absurd ht hp

theorem endReport_execDecode (hp : s.phase ≠ .idle) (he : execDecode s = .next t) (ht : t.phase = .idle) :
    EndReport s t := by
  obtain ⟨hidle, -⟩ | ⟨hc, -, rfl⟩ | ⟨hc, -, -, rfl⟩ | ⟨hc, -, -, -, rfl⟩ | ⟨-, -, -, -, rfl⟩ | ⟨hw, -, rfl⟩ |
    ⟨-, -, rfl⟩ | ⟨-, -, rfl⟩ | ⟨-, -, seg, -, rfl⟩ | ⟨-, rfl⟩ | ⟨hw, -, rfl⟩ | ⟨-, -, -, rfl⟩ := execDecode_cases he
  · exact absurd hidle hp
  · exact .of_check hc (by decide)
  · exact .of_check hc (by decide)
  · exact .of_check hc (by decide)
  · cases ht
  · exact .of_working hw (by decide) rfl
  · cases ht
  · exact absurd ht (advance_phase_ne_idle _)
  · exact absurd ht (advance_phase_ne_idle _)
  · cases ht
  · exact .of_working hw (by decide) rfl
  · exact absurd ht hp

theorem endReport_exec {i : Instr} (hp : s.phase ≠ .idle) (he : exec i s = .next t) (ht : t.phase = .idle) :
    EndReport s t := by
  cases i with
  | configure => exact endReport_execConfigure hp he ht
  | encode => exact endReport_execEncode hp he ht
  | decode => exact endReport_execDecode hp he ht

theorem endReport_engineStep (hp : s.phase ≠ .idle) (he : engineStep s = .next t) (ht : t.phase = .idle) :
    EndReport s t := by
  obtain ⟨hidle, -⟩ | ⟨hc, -, rfl⟩ | ⟨-, i, -, he⟩ | ⟨i, -, he⟩ := engineStep_cases he
  · exact absurd hidle hp
  · exact .of_check hc (by decide)
  · exact endReport_exec hp he ht
  · exact endReport_exec hp he ht

/-- Settles O43: the end of a command is an `EndReport` of the ENGINE's move, and `endCommand` is R207's frame. -/
theorem failedCommandOnlyReports : Obligations.FailedCommandOnlyReports := by
  intro s t hturn hp hstep ht
  rw [step_of_engineTurn hturn] at hstep
  obtain ⟨hcheck, c, hc, rfl⟩ | ⟨hwork, herr⟩ := endReport_engineStep (s := takeTurn s) hp hstep ht
  · exact ⟨iff_of_true hc hcheck, fun _ => rfl⟩
  · exact ⟨iff_of_false (fun h => h herr) hwork, fun hcheck => absurd hcheck hwork⟩

/-! ### Illegal command words (R94, R205) -/

theorem engineStep_of_illegal {e : IllegalWord} (hp : s.phase = .check) (h : decodeWord s.opc = .error e) :
    engineStep s = .next (s.endCommand .illegalCommand) := by
  simp [engineStep, engineCheck, raiseError, hp, h]

/-- Settles O6: a word other than the three command words does not decode. -/
theorem illegalWordReports : Obligations.IllegalWordReports := by
  refine ⟨rfl, fun s hturn hp h1 h2 h3 => ?_⟩
  obtain ⟨-, -, -, hillegal⟩ := commandWords s.opc
  obtain ⟨e, he⟩ := hillegal h1 h2 h3
  rw [step_of_engineTurn hturn]
  exact engineStep_of_illegal hp he

/-! ### Host accesses in the busy window (R220, R234, R235) -/

theorem hostWrite_of_busy (a w : Word) (hb : s.busy = true) : hostWrite a w s = .fault .busyHazard := if_pos hb

theorem hostRead_of_busy {a : Word} (hb : s.busy = true) (hr : s.isStatusRead a = false) :
    hostRead a s = .fault .busyHazard := by
  simp [hostRead, hb, hr]

/-- What a write while BUSY = 0 records: that it was made before the STATUS read of R234. -/
theorem hazard_of_hostWrite {a w : Word} (h : hostWrite a w s = .next t) : t.hazard = (s.hazard || s.pollDue) := by
  obtain ⟨hb, tgt, -, rfl⟩ := hostWrite_cases h
  calc (s.noteAccess.writeTarget tgt w).hazard = (s.hazard || (s.busy || s.pollDue)) := writeTarget_hazard _ tgt w
    _ = (s.hazard || s.pollDue) := by rw [hb, Bool.false_or]

/-- What a read other than STATUS's records, which answers a next state only while BUSY = 0. -/
theorem hazard_of_hostRead {a : Word} (hr : s.isStatusRead a = false) (h : hostRead a s = .next t) :
    t.hazard = (s.hazard || s.pollDue) := by
  obtain ⟨hbusy, v, -, rfl⟩ := hostRead_cases h
  have hb : s.busy = false := by simpa [hr] using hbusy
  simp [State.pollWindow, hr, hb]

/-- A STATUS read is allowed at any time (R235), is no break of R234, and closes its window while BUSY = 0. -/
theorem hostRead_statusWord (s : State) : hostRead 0x00000001#32 s = .next
    { s with reads := s.statusWord :: s.reads, pollDue := if s.busy then s.pollDue else false } := by
  have hr : s.isStatusRead 0x00000001#32 = true := (isStatusRead_iff s _).2 rfl
  rw [hostRead_of (v := s.statusWord) (fun _ => hr) rfl, State.observe, hr]
  cases s.busy <;> simp

/-- Settles O47: the accesses while BUSY = 1, those of the rest of the window, and the STATUS read. -/
theorem busyAccessFaults : Obligations.BusyAccessFaults := by
  intro s a w
  have hstatus : a ≠ 0x00000001#32 → s.isStatusRead a = false := fun ha =>
    Bool.eq_false_iff.2 fun hr => ha ((isStatusRead_iff s a).1 hr)
  refine ⟨fun hb => ⟨hostWrite_of_busy a w hb, fun ha => hostRead_of_busy hb (hstatus ha)⟩, fun _ t h => ?_,
    hostRead_statusWord s⟩
  obtain hwrite | ⟨ha, hread⟩ := h
  · exact hazard_of_hostWrite hwrite
  · exact hazard_of_hostRead (hstatus ha) hread

end Sys2Proof.Proofs
end
